-- ==== Sys2Proof/Word.lean ====
section
/-! DEFINITION. The widths of this hardware (spec/00_scope.md R5, spec/10_state.md R20 to R24). Every value is unsigned (R7). -/

namespace Sys2Proof

/-- A general register, a timer or a memory byte (`REG_W`, `TIMER_W`: 8 bits). -/
abbrev Byte := BitVec 8

/-- `I`, `pc`, a stack entry, an instruction word, the sixteen key lines (16 bits). -/
abbrev Word := BitVec 16

/-- A memory address (`ADDR_W`: 12 bits): every value of it exists (R40). -/
abbrev Addr := BitVec 12

/-- A field of four bits: the row count `n`, a key number, an opcode nibble. -/
abbrev Nibble := BitVec 4

/-- The number of a general register, `0` for V0 to `15` for VF (R20). -/
abbrev RegIx := BitVec 4

end Sys2Proof
end

