-- ==== Sys2Proof/Syntax.lean ====
section
/-! DEFINITION. The 34 instructions of spec/30_encoding.md R65, in the order of spec/opcode_table.json. A field has the width the
encoding gives it (R61, R63), so every term is an instruction the hardware has. -/

namespace Sys2Proof

/-- One constructor per row of the opcode table. `x` and `y` name registers, `nn`, `nnn` and `n` are immediates (R61). -/
inductive Instr where
  | cls                              -- 00E0
  | ret                              -- 00EE
  | jp (nnn : Addr)                  -- 1nnn
  | call (nnn : Addr)                -- 2nnn
  | seVxNn (x : RegIx) (nn : Byte)   -- 3xnn
  | sneVxNn (x : RegIx) (nn : Byte)  -- 4xnn
  | seVxVy (x y : RegIx)             -- 5xy0
  | ldVxNn (x : RegIx) (nn : Byte)   -- 6xnn
  | addVxNn (x : RegIx) (nn : Byte)  -- 7xnn
  | ldVxVy (x y : RegIx)             -- 8xy0
  | orVxVy (x y : RegIx)             -- 8xy1
  | andVxVy (x y : RegIx)            -- 8xy2
  | xorVxVy (x y : RegIx)            -- 8xy3
  | addVxVy (x y : RegIx)            -- 8xy4
  | subVxVy (x y : RegIx)            -- 8xy5
  | shrVx (x y : RegIx)              -- 8xy6, `y` carried and ignored (R69)
  | subnVxVy (x y : RegIx)           -- 8xy7
  | shlVx (x y : RegIx)              -- 8xyE, `y` carried and ignored (R69)
  | sneVxVy (x y : RegIx)            -- 9xy0
  | ldINnn (nnn : Addr)              -- Annn
  | jpV0 (nnn : Addr)                -- Bnnn
  | rndVxNn (x : RegIx) (nn : Byte)  -- Cxnn
  | drw (x y : RegIx) (n : Nibble)   -- Dxyn
  | skp (x : RegIx)                  -- Ex9E
  | sknp (x : RegIx)                 -- ExA1
  | ldVxDt (x : RegIx)               -- Fx07
  | ldVxK (x : RegIx)                -- Fx0A
  | ldDtVx (x : RegIx)               -- Fx15
  | ldStVx (x : RegIx)               -- Fx18
  | addIVx (x : RegIx)               -- Fx1E
  | ldFVx (x : RegIx)                -- Fx29
  | ldBVx (x : RegIx)                -- Fx33
  | ldMemVx (x : RegIx)              -- Fx55
  | ldVxMem (x : RegIx)              -- Fx65
  deriving DecidableEq, Repr

/-- The instruction's mnemonic in spec/opcode_table.json. -/
def Instr.mnemonic : Instr → String
  | .cls => "CLS"
  | .ret => "RET"
  | .jp _ => "JP"
  | .call _ => "CALL"
  | .seVxNn _ _ => "SE_VX_NN"
  | .sneVxNn _ _ => "SNE_VX_NN"
  | .seVxVy _ _ => "SE_VX_VY"
  | .ldVxNn _ _ => "LD_VX_NN"
  | .addVxNn _ _ => "ADD_VX_NN"
  | .ldVxVy _ _ => "LD_VX_VY"
  | .orVxVy _ _ => "OR"
  | .andVxVy _ _ => "AND"
  | .xorVxVy _ _ => "XOR"
  | .addVxVy _ _ => "ADD_VX_VY"
  | .subVxVy _ _ => "SUB"
  | .shrVx _ _ => "SHR"
  | .subnVxVy _ _ => "SUBN"
  | .shlVx _ _ => "SHL"
  | .sneVxVy _ _ => "SNE_VX_VY"
  | .ldINnn _ => "LD_I_NNN"
  | .jpV0 _ => "JP_V0"
  | .rndVxNn _ _ => "RND"
  | .drw _ _ _ => "DRW"
  | .skp _ => "SKP"
  | .sknp _ => "SKNP"
  | .ldVxDt _ => "LD_VX_DT"
  | .ldVxK _ => "LD_VX_K"
  | .ldDtVx _ => "LD_DT_VX"
  | .ldStVx _ => "LD_ST_VX"
  | .addIVx _ => "ADD_I_VX"
  | .ldFVx _ => "LD_F_VX"
  | .ldBVx _ => "LD_B_VX"
  | .ldMemVx _ => "LD_MEM_VX"
  | .ldVxMem _ => "LD_VX_MEM"

end Sys2Proof
end

