-- ==== Sys2Proof/Config.lean ====
section
/-! DEFINITION. What is fixed for the machine (spec/00_scope.md R5) and what the spec leaves open (R6). The open parameters are
constants with no body: nothing in Lean can evaluate one, so a claim about the machine holds for every value of them. -/

namespace Sys2Proof.Config

/-- `PROG_BASE` (R5): the load address of a program and the reset value of `pc`. -/
def progBase : Word := 0x200#16

/-- `PROG_MAX` (R5, spec/70_reset_and_hazards.md R183): the largest program in bytes. -/
def progMax : Nat := 3584

/-- `FONT_BASE` (R5): the address of the first font byte. -/
def fontBase : Word := 0x000#16

/-- `FONT_BYTES` (R5): sixteen glyphs of `GLYPH_BYTES` = 5 bytes. -/
def fontBytes : Nat := 80

/-- `FONT` (R6, decision D23, log 4): byte `k` of the font table, `k` below 80. The source gives no glyph byte, so the
machine leaves every one of them open. -/
opaque fontByte : Nat → Byte

/-- `key[15:0]` (R6, R9, decision D26, log 1): the key lines as the `k`-th `Cycle` step finds them, under no law. -/
opaque keyInput : Nat → Word

/-- `rnd[7:0]` (R6, R9, decision D21, log 1): the random byte of the `k`-th `Cycle` step, under no law. -/
opaque rndInput : Nat → Byte

/-- The draw behind `KEY_PICK` in the `k`-th `Cycle` step (R6, decision D11, log 2): which of the pressed keys is taken. -/
opaque pickInput : Nat → Nibble

/-- The tick schedule (R6, spec/60_exceptions.md R161, decision D18, log 3): how many `Tick` steps fall between the
`k`-th `Cycle` step and the next, zero, one or many. -/
opaque ticksAfter : Nat → Nat

/-- The table of spec/20_memory.md R55, "the font that CHIP-8 interpreters conventionally use [from general knowledge, not in
source]". PRESUMED, log 4. The machine does not use it: it is one value `FONT` may have, for a claim that names it. -/
def conventionalFont : List Byte :=
  [0xF0, 0x90, 0x90, 0x90, 0xF0,  0x20, 0x60, 0x20, 0x20, 0x70,
   0xF0, 0x10, 0xF0, 0x80, 0xF0,  0xF0, 0x10, 0xF0, 0x10, 0xF0] ++
  [0x90, 0x90, 0xF0, 0x10, 0x10,  0xF0, 0x80, 0xF0, 0x10, 0xF0,
   0xF0, 0x80, 0xF0, 0x90, 0xF0,  0xF0, 0x10, 0x20, 0x40, 0x40] ++
  [0xF0, 0x90, 0xF0, 0x90, 0xF0,  0xF0, 0x90, 0xF0, 0x10, 0xF0,
   0xF0, 0x90, 0xF0, 0x90, 0x90,  0xE0, 0x90, 0xE0, 0x90, 0xE0] ++
  [0xF0, 0x80, 0x80, 0x80, 0xF0,  0xE0, 0x90, 0x90, 0x90, 0xE0,
   0xF0, 0x80, 0xF0, 0x80, 0xF0,  0xF0, 0x80, 0xF0, 0x80, 0x80]

end Sys2Proof.Config
end

