-- ==== Sys2Proof/WellFormed.lean ====
section
/-! DEFINITION. Which words are instructions and which byte sequences are programs. The opcode map is spec/30_encoding.md R65 as
spec/opcode_table.json gives it, a second and independent account of the legal words beside the decoder (R64). -/

namespace Sys2Proof

/-- A row of the opcode map (R65): a word `op` belongs to it when `op & mask == pattern`. -/
structure OpcodeRow where
  mnemonic : String
  pattern : Word
  mask : Word
  deriving DecidableEq, Repr

/-- The opcode map, the 34 rows in the order of the table. -/
def opcodeMap : List OpcodeRow :=
  [⟨"CLS", 0x00E0#16, 0xFFFF#16⟩,
   ⟨"RET", 0x00EE#16, 0xFFFF#16⟩,
   ⟨"JP", 0x1000#16, 0xF000#16⟩,
   ⟨"CALL", 0x2000#16, 0xF000#16⟩,
   ⟨"SE_VX_NN", 0x3000#16, 0xF000#16⟩,
   ⟨"SNE_VX_NN", 0x4000#16, 0xF000#16⟩,
   ⟨"SE_VX_VY", 0x5000#16, 0xF00F#16⟩,
   ⟨"LD_VX_NN", 0x6000#16, 0xF000#16⟩,
   ⟨"ADD_VX_NN", 0x7000#16, 0xF000#16⟩] ++
  [⟨"LD_VX_VY", 0x8000#16, 0xF00F#16⟩,
   ⟨"OR", 0x8001#16, 0xF00F#16⟩,
   ⟨"AND", 0x8002#16, 0xF00F#16⟩,
   ⟨"XOR", 0x8003#16, 0xF00F#16⟩,
   ⟨"ADD_VX_VY", 0x8004#16, 0xF00F#16⟩,
   ⟨"SUB", 0x8005#16, 0xF00F#16⟩,
   ⟨"SHR", 0x8006#16, 0xF00F#16⟩,
   ⟨"SUBN", 0x8007#16, 0xF00F#16⟩,
   ⟨"SHL", 0x800E#16, 0xF00F#16⟩] ++
  [⟨"SNE_VX_VY", 0x9000#16, 0xF00F#16⟩,
   ⟨"LD_I_NNN", 0xA000#16, 0xF000#16⟩,
   ⟨"JP_V0", 0xB000#16, 0xF000#16⟩,
   ⟨"RND", 0xC000#16, 0xF000#16⟩,
   ⟨"DRW", 0xD000#16, 0xF000#16⟩,
   ⟨"SKP", 0xE09E#16, 0xF0FF#16⟩,
   ⟨"SKNP", 0xE0A1#16, 0xF0FF#16⟩,
   ⟨"LD_VX_DT", 0xF007#16, 0xF0FF#16⟩,
   ⟨"LD_VX_K", 0xF00A#16, 0xF0FF#16⟩] ++
  [⟨"LD_DT_VX", 0xF015#16, 0xF0FF#16⟩,
   ⟨"LD_ST_VX", 0xF018#16, 0xF0FF#16⟩,
   ⟨"ADD_I_VX", 0xF01E#16, 0xF0FF#16⟩,
   ⟨"LD_F_VX", 0xF029#16, 0xF0FF#16⟩,
   ⟨"LD_B_VX", 0xF033#16, 0xF0FF#16⟩,
   ⟨"LD_MEM_VX", 0xF055#16, 0xF0FF#16⟩,
   ⟨"LD_VX_MEM", 0xF065#16, 0xF0FF#16⟩]

/-- `op & mask == match` (R64). -/
def OpcodeRow.covers (r : OpcodeRow) (op : Word) : Bool := op &&& r.mask == r.pattern

/-- No word can belong to both rows: some bit fixed by both has different values. -/
def OpcodeRow.apart (r q : OpcodeRow) : Bool := (r.pattern ^^^ q.pattern) &&& r.mask &&& q.mask != 0

/-- The first row that covers the word: "A decoder written as the first row of `opcode_table.json` whose `op & mask == match`" (R64). -/
def rowOf (op : Word) : Option OpcodeRow := opcodeMap.find? (·.covers op)

/-- The word is one of the 34 instructions; every other word faults (R66, R68). -/
def legalWord (op : Word) : Bool := (rowOf op).isSome

/-- The only check an instruction could fail is a field out of range, and a field is a bit vector of its own width: all values of
`x`, `y`, `n`, `nn` and `nnn` are legal (R63). -/
def Instr.wellFormed (_ : Instr) : Bool := true

/-- A program the loader accepts: at most 3584 bytes (spec/70_reset_and_hazards.md R183, R184). -/
def romFits (rom : List Byte) : Bool := decide (rom.length ≤ Config.progMax)

end Sys2Proof
end

