-- ==== Sys2Proof/Decode.lean ====
section
/-! DEFINITION. Decoding and encoding (spec/30_encoding.md R60 to R66). Decoding is total: it answers an instruction or names
the reason there is none. -/

namespace Sys2Proof

/-- Why bytes are no instruction. -/
inductive DecodeError where
  | unusedSubOpcode   -- a word of a known family that R64 maps to `illegal` (R66)
  | unknownFamily     -- a high nibble with no instruction: no word has one (R67)
  | truncated         -- fewer than two bytes are left: the model's own, the fetch never meets it
  deriving DecidableEq, Repr

/-- The word of two bytes, the byte at the lower address in bits 15 to 8 (spec/20_memory.md R42). -/
def wordOfBytes (hi lo : Byte) : Word := hi ++ lo

/-- The bytes of a word as memory holds them, high byte first (R42, R60). -/
def bytesOfWord (op : Word) : List Byte := [op.extractLsb' 8 8, op.extractLsb' 0 8]

/-- `fam = op[15:12]` (R61). -/
def famField (op : Word) : Nibble := op.extractLsb' 12 4

/-- `x = op[11:8]` (R61). -/
def xField (op : Word) : RegIx := op.extractLsb' 8 4

/-- `y = op[7:4]` (R61). -/
def yField (op : Word) : RegIx := op.extractLsb' 4 4

/-- `n = op[3:0]` (R61). -/
def nField (op : Word) : Nibble := op.extractLsb' 0 4

/-- `nn = op[7:0]` (R61). -/
def nnField (op : Word) : Byte := op.extractLsb' 0 8

/-- `nnn = op[11:0]` (R61). -/
def nnnField (op : Word) : Addr := op.extractLsb' 0 12

/-- Family 0 (R64): only the exact words 00E0 and 00EE (decision D1, log 10). -/
def decodeFamily0 (op : Word) : Except DecodeError Instr :=
  if op = 0x00E0#16 then .ok .cls
  else if op = 0x00EE#16 then .ok .ret
  else .error .unusedSubOpcode

/-- Family 8 (R64), keyed by the low nibble. -/
def decodeFamily8 (x y : RegIx) (n : Nibble) : Except DecodeError Instr :=
  match n with
  | 0x0#4 => .ok (.ldVxVy x y)
  | 0x1#4 => .ok (.orVxVy x y)
  | 0x2#4 => .ok (.andVxVy x y)
  | 0x3#4 => .ok (.xorVxVy x y)
  | 0x4#4 => .ok (.addVxVy x y)
  | 0x5#4 => .ok (.subVxVy x y)
  | 0x6#4 => .ok (.shrVx x y)
  | 0x7#4 => .ok (.subnVxVy x y)
  | 0xE#4 => .ok (.shlVx x y)
  | _ => .error .unusedSubOpcode

/-- Family E (R64), keyed by the low byte. -/
def decodeFamilyE (x : RegIx) (nn : Byte) : Except DecodeError Instr :=
  match nn with
  | 0x9E#8 => .ok (.skp x)
  | 0xA1#8 => .ok (.sknp x)
  | _ => .error .unusedSubOpcode

/-- Family F (R64), keyed by the low byte. -/
def decodeFamilyF (x : RegIx) (nn : Byte) : Except DecodeError Instr :=
  match nn with
  | 0x07#8 => .ok (.ldVxDt x)
  | 0x0A#8 => .ok (.ldVxK x)
  | 0x15#8 => .ok (.ldDtVx x)
  | 0x18#8 => .ok (.ldStVx x)
  | 0x1E#8 => .ok (.addIVx x)
  | 0x29#8 => .ok (.ldFVx x)
  | 0x33#8 => .ok (.ldBVx x)
  | 0x55#8 => .ok (.ldMemVx x)
  | 0x65#8 => .ok (.ldVxMem x)
  | _ => .error .unusedSubOpcode

/-- `Decode(op)` (R64). -/
def decodeWord (op : Word) : Except DecodeError Instr :=
  match famField op with
  | 0x0#4 => decodeFamily0 op
  | 0x1#4 => .ok (.jp (nnnField op))
  | 0x2#4 => .ok (.call (nnnField op))
  | 0x3#4 => .ok (.seVxNn (xField op) (nnField op))
  | 0x4#4 => .ok (.sneVxNn (xField op) (nnField op))
  | 0x5#4 => if nField op = 0x0#4 then .ok (.seVxVy (xField op) (yField op)) else .error .unusedSubOpcode
  | 0x6#4 => .ok (.ldVxNn (xField op) (nnField op))
  | 0x7#4 => .ok (.addVxNn (xField op) (nnField op))
  | 0x8#4 => decodeFamily8 (xField op) (yField op) (nField op)
  | 0x9#4 => if nField op = 0x0#4 then .ok (.sneVxVy (xField op) (yField op)) else .error .unusedSubOpcode
  | 0xA#4 => .ok (.ldINnn (nnnField op))
  | 0xB#4 => .ok (.jpV0 (nnnField op))
  | 0xC#4 => .ok (.rndVxNn (xField op) (nnField op))
  | 0xD#4 => .ok (.drw (xField op) (yField op) (nField op))
  | 0xE#4 => decodeFamilyE (xField op) (nnField op)
  | 0xF#4 => decodeFamilyF (xField op) (nnField op)
  | _ => .error .unknownFamily

/-- The instruction at the head of a byte sequence and the bytes after it: every instruction is two bytes (R60). -/
def decode : List Byte → Except DecodeError (Instr × List Byte)
  | hi :: lo :: rest =>
    match decodeWord (wordOfBytes hi lo) with
    | .ok i => .ok (i, rest)
    | .error e => .error e
  | _ => .error .truncated

/-- Format `XY` (R62): family nibble, `x`, `y`, discriminator. -/
def wordXY (fam : Nibble) (x y : RegIx) (d : Nibble) : Word := fam ++ x ++ y ++ d

/-- Formats `XNN` and `X` (R62): family nibble, `x`, low byte. -/
def wordXNN (fam : Nibble) (x : RegIx) (nn : Byte) : Word := fam ++ x ++ nn

/-- Format `NNN` (R62): family nibble, 12-bit immediate. -/
def wordNNN (fam : Nibble) (nnn : Addr) : Word := fam ++ nnn

/-- The word of an instruction (R62, R65). -/
def encode : Instr → Word
  | .cls => 0x00E0#16
  | .ret => 0x00EE#16
  | .jp nnn => wordNNN 0x1 nnn
  | .call nnn => wordNNN 0x2 nnn
  | .seVxNn x nn => wordXNN 0x3 x nn
  | .sneVxNn x nn => wordXNN 0x4 x nn
  | .seVxVy x y => wordXY 0x5 x y 0x0
  | .ldVxNn x nn => wordXNN 0x6 x nn
  | .addVxNn x nn => wordXNN 0x7 x nn
  | .ldVxVy x y => wordXY 0x8 x y 0x0
  | .orVxVy x y => wordXY 0x8 x y 0x1
  | .andVxVy x y => wordXY 0x8 x y 0x2
  | .xorVxVy x y => wordXY 0x8 x y 0x3
  | .addVxVy x y => wordXY 0x8 x y 0x4
  | .subVxVy x y => wordXY 0x8 x y 0x5
  | .shrVx x y => wordXY 0x8 x y 0x6
  | .subnVxVy x y => wordXY 0x8 x y 0x7
  | .shlVx x y => wordXY 0x8 x y 0xE
  | .sneVxVy x y => wordXY 0x9 x y 0x0
  | .ldINnn nnn => wordNNN 0xA nnn
  | .jpV0 nnn => wordNNN 0xB nnn
  | .rndVxNn x nn => wordXNN 0xC x nn
  | .drw x y n => wordXY 0xD x y n
  | .skp x => wordXNN 0xE x 0x9E
  | .sknp x => wordXNN 0xE x 0xA1
  | .ldVxDt x => wordXNN 0xF x 0x07
  | .ldVxK x => wordXNN 0xF x 0x0A
  | .ldDtVx x => wordXNN 0xF x 0x15
  | .ldStVx x => wordXNN 0xF x 0x18
  | .addIVx x => wordXNN 0xF x 0x1E
  | .ldFVx x => wordXNN 0xF x 0x29
  | .ldBVx x => wordXNN 0xF x 0x33
  | .ldMemVx x => wordXNN 0xF x 0x55
  | .ldVxMem x => wordXNN 0xF x 0x65

/-- The instruction's word of a table row's `nbits` bits `w`, as the hardware stores it: one 16-bit word, high byte first (R60). -/
def tableWord (nbits w : Nat) : Word := BitVec.ofNat 16 (w % 2 ^ nbits)

/-- What the decoder reads from the bytes of that word. -/
def decodeTableWord (nbits w : Nat) : Option Instr :=
  match decode (bytesOfWord (tableWord nbits w)) with
  | .ok (i, _) => some i
  | .error _ => none

end Sys2Proof
end

