-- ==== Sys2Proof/Machine/State.lean ====
section
/-! DEFINITION. The machine's state as plain data, its reset value, and the reasons a step can stop (spec/10_state.md R20 to R37,
spec/60_exceptions.md R150 to R159). -/

namespace Sys2Proof.Machine

/-- `MODE` (R30, R32): the core runs, or waits for a key. -/
inductive Mode where
  | running
  | awaitingKey
  deriving DecidableEq, Repr

/-- The value of `FAULT_KIND` (spec/60_exceptions.md R150). -/
inductive FaultKind where
  | noFault           -- code 0: while `HALT == 0`
  | pcOutOfBounds     -- code 1: a fetch with `pc > 0xFFE` (R151)
  | stackOverflow     -- code 2: CALL with `SP == 16` (R152)
  | stackUnderflow    -- code 3: RET with `SP == 0` (R153)
  | unusedSubOpcode   -- code 4: a word that is no instruction (R154)
  | unknownFamily     -- code 5: never raised (R155)
  deriving DecidableEq, Repr

/-- `MEM` (R28): (address, byte) pairs, addresses strictly rising below 4096, no pair equal to what an unlisted address
reads as (`Memory.unlisted`, `Memory.wf` in Machine/Ops.lean). -/
abbrev Memory := List Host.Cell

/-- `FB` (R27): 32 rows of 64 pixels, the pixel of column `x` in bit `x` of its row (log 8). -/
abbrev Framebuffer := Vector (BitVec 64) 32

/-- The state of the machine (R20 to R31). The last five fields are the model's own: the inputs of the current `Cycle` step,
which the spec does not count as state (R29, R35), and the two counters behind them (logs 1 to 3). -/
structure State where
  /-- `V[0]` to `V[15]` (R20). -/
  v : Vector Byte 16
  /-- `I` (R22). -/
  i : Word
  /-- `pc` (R23). -/
  pc : Word
  /-- `STK[0]` to `STK[15]` (R24). -/
  stk : Vector Word 16
  /-- `SP`, the depth of the call stack, 0 to 16 (R24). -/
  sp : Fin 17
  /-- `DT` (R25). -/
  dt : Byte
  /-- `ST` (R26). -/
  st : Byte
  /-- `FB` (R27). -/
  fb : Framebuffer
  /-- `MEM` (R28). -/
  mem : Memory
  /-- `MODE` (R30). -/
  mode : Mode
  /-- `WAITX` (R30). -/
  waitX : RegIx
  /-- `HALT` (R31). -/
  halt : Bool
  /-- `FAULT_KIND` (R31). -/
  faultKind : FaultKind
  /-- `FAULT_PC` (R31). -/
  faultPc : Word
  /-- `FAULT_OP` (R31). -/
  faultOp : Word
  /-- The input `key[15:0]` as the current `Cycle` step sampled it (R29, log 1). -/
  key : Word
  /-- The input `rnd[7:0]` as the current `Cycle` step sampled it (R102, log 1). -/
  rnd : Byte
  /-- The draw behind `KEY_PICK` in the current `Cycle` step (R146, log 2). -/
  pick : Nibble
  /-- How many `Cycle` steps have sampled their inputs: the number the open inputs are drawn at (log 1). -/
  draws : Nat
  /-- How many `Tick` steps run before the next `Cycle` step (R161, log 3). -/
  ticksDue : Nat
  deriving DecidableEq, Repr

/-- The machine right after reset (R36, R180): everything zero or off, `pc` at `0x200`, running, and memory with nothing
listed, so that it reads as the font table and zeros. The five fields of the model's own are 0 (DESIGN CHOICE, logs 1 to 3). -/
def State.reset : State where
  v := Vector.replicate 16 0
  i := 0
  pc := Config.progBase
  stk := Vector.replicate 16 0
  sp := 0
  dt := 0
  st := 0
  fb := Vector.replicate 32 0
  mem := []
  mode := .running
  waitX := 0
  halt := false
  faultKind := .noFault
  faultPc := 0
  faultOp := 0
  key := 0
  rnd := 0
  pick := 0
  draws := 0
  ticksDue := 0

/-- Why a step does not exist. -/
inductive Fault where
  /-- Raised by `step` alone, at a state with `HALT == 1`: "no step exists" (spec/00_scope.md R11), "`stuck` for the core and the
  timer" (spec/93_implementation_defined.md U21). Safe: the hardware does nothing either, and only the host's `reset` leaves
  the state (spec/60_exceptions.md R159). The four execution faults are no `Fault` of this type: they are next states. -/
  | halted
  deriving DecidableEq, Repr

/-- Why an instruction has no meaning. -/
inductive Refusal where
  /-- Raised by an arm of `exec` whose instruction has no meaning yet: none at present. Safe: the run stops. -/
  | notModelled (mnemonic : String)
  deriving DecidableEq, Repr

end Sys2Proof.Machine
end

