-- ==== Sys2Proof/Machine/Ops.lean ====
section
/-! DEFINITION. The named operations over memory, registers, call stack, timers and inputs; taking a fault (spec/60_exceptions.md
R158) as one shared operation; the fetch. -/

namespace Sys2Proof.Machine

/-! ## Memory (spec/20_memory.md) -/

/-- What an unlisted address reads as: the reset contents (spec/10_state.md R36), `FONT[a]` at `0x000` to `0x04F`, zero above. -/
def Memory.unlisted (a : Nat) : Byte := if a < Config.fontBytes then Config.fontByte a else 0

/-- The byte listed at an address, if one is. -/
def Memory.lookup (m : Memory) (a : Nat) : Option Byte :=
  match m with
  | [] => none
  | (b, w) :: rest => if a = b then some w else Memory.lookup rest a

/-- `MemRead(addr, 1)` (spec/00_scope.md R8): the last byte written there, else the reset contents (R51). -/
def Memory.read (m : Memory) (a : Addr) : Byte := (Memory.lookup m a.toNat).getD (Memory.unlisted a.toNat)

/-- The list without an address. -/
def Memory.erase (m : Memory) (a : Nat) : Memory := m.filter (fun c => c.1 != a)

/-- The list with an address, in rising order. -/
def Memory.insert (m : Memory) (a : Nat) (w : Byte) : Memory :=
  match m with
  | [] => [(a, w)]
  | (b, u) :: rest =>
    if a < b then (a, w) :: (b, u) :: rest
    else if a = b then (a, w) :: rest
    else (b, u) :: Memory.insert rest a w

/-- `MemWrite(addr, 1, v)` (spec/00_scope.md R8), in the canonical form: the byte an unlisted address reads as is not listed. -/
def Memory.write (m : Memory) (a : Addr) (w : Byte) : Memory :=
  if w = Memory.unlisted a.toNat then Memory.erase m a.toNat else Memory.insert m a.toNat w

/-- The addresses rise strictly from `lo` and stay below 4096, and no pair repeats what its address reads as unlisted. -/
def Memory.risesFrom (lo : Nat) : Memory → Bool
  | [] => true
  | (a, w) :: rest => decide (lo ≤ a) && decide (a < 4096) && decide (w ≠ Memory.unlisted a) && Memory.risesFrom (a + 1) rest

/-- The canonical form of memory. -/
def Memory.wf (m : Memory) : Bool := Memory.risesFrom 0 m

/-- `MemRead(addr, 1)` on the state: a read changes nothing (R47). -/
def State.readByte (s : State) (a : Addr) : Byte := Memory.read s.mem a

/-- `MemWrite(addr, 1, v)` on the state: no address is protected (R49). -/
def State.writeByte (s : State) (a : Addr) (w : Byte) : State := { s with mem := Memory.write s.mem a w }

/-! ## Registers (spec/10_state.md R20 to R26) -/

/-- `V[x]`: all sixteen registers read back what was written, none is hard-wired (R20). -/
def State.getV (s : State) (x : RegIx) : Byte := s.v[x.toNat]'(x.isLt)

/-- `V[x] <- b`. -/
def State.setV (s : State) (x : RegIx) (b : Byte) : State := { s with v := s.v.set x.toNat b x.isLt }

/-- `I <- w`. -/
def State.setI (s : State) (w : Word) : State := { s with i := w }

/-- `pc <- w`; no check is made here (R23 (d)). -/
def State.setPc (s : State) (w : Word) : State := { s with pc := w }

/-- `DT <- b`. -/
def State.setDt (s : State) (b : Byte) : State := { s with dt := b }

/-- `ST <- b`. -/
def State.setSt (s : State) (b : Byte) : State := { s with st := b }

/-- `pc <- pc + 2`, the default (spec/00_scope.md R11). -/
def State.advance (s : State) : State := s.setPc (s.pc + 2)

/-- A skip (spec/41_skip.md): `pc <- pc + 4` when the condition holds, else `pc <- pc + 2`. -/
def State.skipIf (s : State) (c : Bool) : State := s.setPc (if c then s.pc + 4 else s.pc + 2)

/-! ## The call stack (spec/10_state.md R24) -/

/-- `STK[k]`. -/
def State.stkAt (s : State) (k : Fin 16) : Word := s.stk[k.val]'(k.isLt)

/-- Push: nothing if `SP == 16`, else `STK[SP] <- w; SP <- SP + 1`. -/
def State.push (s : State) (w : Word) : Option State :=
  if h : s.sp.val < 16 then
    some { s with stk := s.stk.set s.sp.val w h, sp := ⟨s.sp.val + 1, Nat.succ_lt_succ h⟩ }
  else none

/-- Pop: nothing if `SP == 0`, else `SP <- SP - 1` and the value `STK[SP]`, which is not cleared. -/
def State.pop (s : State) : Option (Word × State) :=
  if h : s.sp.val = 0 then none
  else
    have hk : s.sp.val - 1 < 16 := by have := s.sp.isLt; omega
    some (s.stkAt ⟨s.sp.val - 1, hk⟩, { s with sp := ⟨s.sp.val - 1, Nat.lt_succ_of_lt hk⟩ })

/-! ## Taking a fault, and leaving it -/

/-- The code of a fault kind (spec/60_exceptions.md R150), the value of the output `fault_kind`. -/
def FaultKind.code : FaultKind → BitVec 3
  | .noFault => 0
  | .pcOutOfBounds => 1
  | .stackOverflow => 2
  | .stackUnderflow => 3
  | .unusedSubOpcode => 4
  | .unknownFamily => 5

/-- `raise K(p, w)` (R158): `HALT`, `FAULT_KIND`, `FAULT_PC` and `FAULT_OP` are written and nothing else. It is applied to the
state before the step's first write, so nothing the faulting step did is kept. -/
def State.raise (s : State) (k : FaultKind) (p w : Word) : State :=
  { s with halt := true, faultKind := k, faultPc := p, faultOp := w }

/-- The fault a word that is no instruction raises (R66, R67, R154, R155). -/
def faultOfDecodeError : DecodeError → FaultKind
  | .unusedSubOpcode => .unusedSubOpcode
  | .unknownFamily => .unknownFamily
  | .truncated => .pcOutOfBounds

/-- `reset` (spec/70_reset_and_hazards.md R180, R181), the only way out of a halted state (R159): there is no return from a fault,
and nothing survives a reset. -/
def State.hostReset (_ : State) : State := State.reset

/-! ## The fetch (spec/20_memory.md R42, R43) -/

/-- The word at `pc`, or nothing when `pc > 0xFFE`: a fetch never wraps (decision D3, log 11). -/
def State.fetchWord (s : State) : Option Word :=
  if s.pc ≤ 0xFFE#16 then
    some (wordOfBytes (s.readByte (s.pc.setWidth 12)) (s.readByte ((s.pc + 1).setWidth 12)))
  else none

/-! ## Timers and inputs -/

/-- A timer one tick later: lowered by one, floor 0 (spec/60_exceptions.md R160). -/
def tickDown (b : Byte) : Byte := if b = 0 then 0 else b - 1

/-- `Tick()` (R160): both timers, nothing else, and nothing while halted. -/
def State.tick (s : State) : State := if s.halt then s else { s with dt := tickDown s.dt, st := tickDown s.st }

/-- One `Tick` step of the schedule (R161): one tick fewer is due. -/
def State.tickStep (s : State) : State := { s.tick with ticksDue := s.ticksDue - 1 }

/-- The inputs of a `Cycle` step put into the fields the instructions read (spec/00_scope.md R9, R11). -/
def State.latch (s : State) (key : Word) (rnd : Byte) (pick : Nibble) : State := { s with key := key, rnd := rnd, pick := pick }

/-- The start of a `Cycle` step: its inputs are drawn, and the number of `Tick` steps that follow it (R161); every draw is an
open value at the number of this `Cycle` step (logs 1 to 3). -/
def State.sample (s : State) : State :=
  { s.latch (Config.keyInput s.draws) (Config.rndInput s.draws) (Config.pickInput s.draws) with
    ticksDue := Config.ticksAfter s.draws, draws := s.draws + 1 }

end Sys2Proof.Machine
end

