-- ==== Sys2Proof/Machine/Flags.lean ====
section
/-! DEFINITION. The flags that five ALU instructions write to VF, and the order in which result and flag are written
(spec/43_alu.md R114 to R119; the collision flag of DRW is in Machine/Blitter.lean). -/

namespace Sys2Proof.Machine

/-- VF, `V[15]` (spec/10_state.md R20). -/
def vf : RegIx := 15

/-- A flag as VF holds it: `0x01` or `0x00` (R21, R119 (b)). -/
def flagByte (c : Bool) : Byte := if c then 0x01#8 else 0x00#8

/-- The carry out of bit 7: the 9-bit sum is above 255 (R114). -/
def carryOut (a b : Byte) : Bool := decide (255 < a.toNat + b.toNat)

/-- No borrow in `a - b` (R115, R117). -/
def notBorrow (a b : Byte) : Bool := decide (b.toNat ≤ a.toNat)

/-- The bit a right shift by one moves out (R116). -/
def shiftedOutRight (a : Byte) : Bool := a.getLsbD 0

/-- The bit a left shift by one moves out (R118). -/
def shiftedOutLeft (a : Byte) : Bool := a.getLsbD 7

/-- Result to `V[x]`, then, last, the flag to VF (R119 (d), decision D7, log 14). -/
def State.setResultFlag (s : State) (x : RegIx) (r : Byte) (c : Bool) : State := (s.setV x r).setV vf (flagByte c)

end Sys2Proof.Machine
end

