-- ==== Sys2Proof/Machine/Alu.lean ====
section
/-! DEFINITION. The register-register ALU instructions of family 8 (spec/43_alu.md R110 to R119). Operands are read before anything is written. -/

namespace Sys2Proof.Machine

/-- `8xy0` LD Vx, Vy (R110). -/
def execLdVxVy (x y : RegIx) (s : State) : Host.Outcome State Fault Refusal := .next (s.setV x (s.getV y)).advance

/-- `8xy1` OR (R111): VF is not a flag here (R119 (c)). -/
def execOrVxVy (x y : RegIx) (s : State) : Host.Outcome State Fault Refusal := .next (s.setV x (s.getV x ||| s.getV y)).advance

/-- `8xy2` AND (R112). -/
def execAndVxVy (x y : RegIx) (s : State) : Host.Outcome State Fault Refusal := .next (s.setV x (s.getV x &&& s.getV y)).advance

/-- `8xy3` XOR (R113). -/
def execXorVxVy (x y : RegIx) (s : State) : Host.Outcome State Fault Refusal := .next (s.setV x (s.getV x ^^^ s.getV y)).advance

/-- `8xy4` ADD Vx, Vy (R114): VF is the carry. -/
def execAddVxVy (x y : RegIx) (s : State) : Host.Outcome State Fault Refusal :=
  .next (s.setResultFlag x (s.getV x + s.getV y) (carryOut (s.getV x) (s.getV y))).advance

/-- `8xy5` SUB Vx, Vy (R115): VF is not-borrow. -/
def execSubVxVy (x y : RegIx) (s : State) : Host.Outcome State Fault Refusal :=
  .next (s.setResultFlag x (s.getV x - s.getV y) (notBorrow (s.getV x) (s.getV y))).advance

/-- `8xy6` SHR Vx (R116): `V[x]` in place, the `y` field ignored (R69, C2). -/
def execShrVx (x _y : RegIx) (s : State) : Host.Outcome State Fault Refusal :=
  .next (s.setResultFlag x (s.getV x >>> 1) (shiftedOutRight (s.getV x))).advance

/-- `8xy7` SUBN Vx, Vy (R117): `V[y] - V[x]` to `V[x]`, VF its not-borrow. -/
def execSubnVxVy (x y : RegIx) (s : State) : Host.Outcome State Fault Refusal :=
  .next (s.setResultFlag x (s.getV y - s.getV x) (notBorrow (s.getV y) (s.getV x))).advance

/-- `8xyE` SHL Vx (R118): `V[x]` in place, the `y` field ignored (R69, C2). -/
def execShlVx (x _y : RegIx) (s : State) : Host.Outcome State Fault Refusal :=
  .next (s.setResultFlag x (s.getV x <<< 1) (shiftedOutLeft (s.getV x))).advance

end Sys2Proof.Machine
end

