-- ==== Sys2Proof/Machine/Blitter.lean ====
section
/-! DEFINITION. The framebuffer and the XOR blitter with its collision detector (spec/10_state.md R27, spec/45_display.md R132). -/

namespace Sys2Proof.Machine

/-- A pixel's place: column 0 to 63 and row 0 to 31. -/
abbrev Pixel := Fin 64 × Fin 32

/-- `FB[y][x]`. -/
def fbPixel (fb : Framebuffer) (p : Pixel) : Bool := (fb[p.2.val]'(p.2.isLt)).getLsbD p.1.val

/-- `FB[y][x] <- FB[y][x] ^ 1`. -/
def fbToggle (fb : Framebuffer) (p : Pixel) : Framebuffer :=
  fb.set p.2.val ((fb[p.2.val]'(p.2.isLt)) ^^^ (1#64 <<< p.1.val)) p.2.isLt

/-- All 2048 pixels off (R130). -/
def fbClear : Framebuffer := Vector.replicate 32 0

/-- The pixel of sprite column `c` and row `r` at the origin `(x0, y0)`, each coordinate wrapped on its own (R132 (a)). -/
def spritePixel (x0 y0 : Byte) (r c : Nat) : Pixel := (Fin.ofNat 64 (x0.toNat + c), Fin.ofNat 32 (y0.toNat + r))

/-- The pixels a sprite row inverts: those of its 1 bits, bit 7 leftmost (R132 (b), (e), decision D22, log 18). -/
def spriteRow (x0 y0 : Byte) (r : Nat) (b : Byte) : List Pixel :=
  ((List.range 8).filter (fun c => b.getLsbD (7 - c))).map (spritePixel x0 y0 r)

/-- The pixels a sprite inverts, its first byte in row `r`, in the order of R132's loops. -/
def spritePixels (x0 y0 : Byte) (r : Nat) : List Byte → List Pixel
  | [] => []
  | b :: rest => spriteRow x0 y0 r b ++ spritePixels x0 y0 (r + 1) rest

/-- One pixel of a blit: `hit` is set when an on pixel is about to go off, then the pixel is inverted. -/
def blitPixel (acc : Framebuffer × Bool) (p : Pixel) : Framebuffer × Bool :=
  (fbToggle acc.1 p, acc.2 || fbPixel acc.1 p)

/-- `Blit(x0, y0, rows)` (R132): the framebuffer after it, and `hit`. -/
def blit (fb : Framebuffer) (x0 y0 : Byte) (rows : List Byte) : Framebuffer × Bool :=
  (spritePixels x0 y0 0 rows).foldl blitPixel (fb, false)

/-- `FB[y][x]` of the state: what the output `fb(x, y)` shows (spec/00_scope.md R9). -/
def State.pixel (s : State) (p : Pixel) : Bool := fbPixel s.fb p

/-- The framebuffer replaced. -/
def State.setFb (s : State) (fb : Framebuffer) : State := { s with fb := fb }

end Sys2Proof.Machine
end

