-- ==== Sys2Proof/Machine/Operands.lean ====
section
/-! DEFINITION. Operand forms: effective addresses, register ranges, decimal digits, glyph addresses, key numbers
(spec/20_memory.md R46, R47, spec/44_index_memory.md, spec/46_keys_timers.md). -/

namespace Sys2Proof.Machine

/-- `EA(k) = (I + k) mod 4096` (R46). -/
def State.ea (s : State) (k : Nat) : Addr := (s.i + BitVec.ofNat 16 k).setWidth 12

/-- The `n` bytes at `EA(0)` to `EA(n - 1)`, as DRW and `Fx65` read them (R47). -/
def State.loadBytes (s : State) (n : Nat) : List Byte := (List.range n).map (fun k => s.readByte (s.ea k))

/-- The bytes written at `EA(k)`, `EA(k + 1)` and so on, as `Fx33` and `Fx55` store them (R47). -/
def State.storeBytes (s : State) (k : Nat) : List Byte → State
  | [] => s
  | b :: rest => (s.writeByte (s.ea k) b).storeBytes (k + 1) rest

/-- `V[0]` to `V[x]` (R124). -/
def State.regsUpTo (s : State) (x : RegIx) : List Byte := (List.range (x.toNat + 1)).map (fun k => s.getV (BitVec.ofNat 4 k))

/-- The bytes written to `V[k]`, `V[k + 1]` and so on (R125). -/
def State.setRegs (s : State) (k : Nat) : List Byte → State
  | [] => s
  | b :: rest => (s.setV (BitVec.ofNat 4 k) b).setRegs (k + 1) rest

/-- The hundreds, tens and ones of a byte (R123), each as a number. -/
def decimalDigits (b : Byte) : List Byte :=
  [BitVec.ofNat 8 (b.toNat / 100), BitVec.ofNat 8 (b.toNat / 10 % 10), BitVec.ofNat 8 (b.toNat % 10)]

/-- `FONT_BASE + 5 * zext_16(V[x])` (R122), on the whole byte (decision D9, log 15). -/
def glyphAddress (b : Byte) : Word := Config.fontBase + BitVec.ofNat 16 (5 * b.toNat)

/-- `V[x][3:0]`, the key number of SKP and SKNP (R140, R141, decision D12, log 16). -/
def keyNumber (b : Byte) : Nibble := b.extractLsb' 0 4

/-- `key[k]`: the key is pressed in this step (R29). -/
def State.keyPressed (s : State) (k : Nibble) : Bool := s.key.getLsbD k.toNat

/-- The pressed keys, lowest first (R146). -/
def pressedKeys (key : Word) : List Nibble := ((List.range 16).filter (fun k => key.getLsbD k)).map (BitVec.ofNat 4)

/-- `KEY_PICK` (R146, decision D11, log 2): the pressed key that the draw points at, any of them for some draw. -/
def keyPick (key : Word) (pick : Nibble) : Nibble := (pressedKeys key).getD (pick.toNat % (pressedKeys key).length) 0

end Sys2Proof.Machine
end

