-- ==== Sys2Proof/Machine/Display.lean ====
section
/-! DEFINITION. The display instructions (spec/45_display.md R130, R131). -/

namespace Sys2Proof.Machine

/-- `00E0` CLS (R130): VF is not written. -/
def execCls (s : State) : Host.Outcome State Fault Refusal := .next (s.setFb fbClear).advance

/-- What `Dxyn` blits: the `n` bytes at `I` at the origin `(V[x], V[y])`, both read before VF is written (R131). -/
def State.drawn (s : State) (x y : RegIx) (n : Nibble) : Framebuffer × Bool :=
  blit s.fb (s.getV x) (s.getV y) (s.loadBytes n.toNat)

/-- `Dxyn` DRW (R131): the framebuffer, then, last, the collision flag in VF. -/
def execDrw (x y : RegIx) (n : Nibble) (s : State) : Host.Outcome State Fault Refusal :=
  .next ((s.setFb (s.drawn x y n).1).setV vf (flagByte (s.drawn x y n).2)).advance

end Sys2Proof.Machine
end

