-- ==== Sys2Proof/Machine/Flow.lean ====
section
/-! DEFINITION. Control transfer: RET, JP, CALL, JP V0 (spec/40_flow.md R80 to R83). Targets are not checked here: a bad one faults at the next fetch. -/

namespace Sys2Proof.Machine

/-- `00EE` RET (R80): `StackUnderflow` on an empty stack, else the popped value becomes `pc` as it is. -/
def execRet (s : State) : Host.Outcome State Fault Refusal :=
  match s.pop with
  | none => .next (s.raise .stackUnderflow s.pc (encode .ret))
  | some (target, s') => .next (s'.setPc target)

/-- `1nnn` JP (R81). -/
def execJp (nnn : Addr) (s : State) : Host.Outcome State Fault Refusal := .next (s.setPc (nnn.setWidth 16))

/-- `2nnn` CALL (R82): `StackOverflow` on a full stack, else `pc + 2` is pushed and `pc` set. -/
def execCall (nnn : Addr) (s : State) : Host.Outcome State Fault Refusal :=
  match s.push (s.pc + 2) with
  | none => .next (s.raise .stackOverflow s.pc (encode (.call nnn)))
  | some s' => .next (s'.setPc (nnn.setWidth 16))

/-- `Bnnn` JP V0 (R83): a 16-bit sum, not reduced mod 4096 (decision D3, log 11). -/
def execJpV0 (nnn : Addr) (s : State) : Host.Outcome State Fault Refusal := .next (s.setPc (nnn.setWidth 16 + (s.getV 0).setWidth 16))

end Sys2Proof.Machine
end

