-- ==== Sys2Proof/Machine/Immediate.lean ====
section
/-! DEFINITION. Register-immediate instructions: LD, ADD, RND (spec/42_immediate.md R100 to R102). -/

namespace Sys2Proof.Machine

/-- `6xnn` LD Vx, nn (R100). -/
def execLdVxNn (x : RegIx) (nn : Byte) (s : State) : Host.Outcome State Fault Refusal := .next (s.setV x nn).advance

/-- `7xnn` ADD Vx, nn (R101): wraps mod 256, no flag. -/
def execAddVxNn (x : RegIx) (nn : Byte) (s : State) : Host.Outcome State Fault Refusal := .next (s.setV x (s.getV x + nn)).advance

/-- `Cxnn` RND Vx, nn (R102): the random byte of this step, an input under no law (log 1), masked. -/
def execRndVxNn (x : RegIx) (nn : Byte) (s : State) : Host.Outcome State Fault Refusal := .next (s.setV x (s.rnd &&& nn)).advance

end Sys2Proof.Machine
end

