-- ==== Sys2Proof/Machine/Index.lean ====
section
/-! DEFINITION. The index register and the loads and stores (spec/44_index_memory.md R120 to R125). No load or store changes `I`. -/

namespace Sys2Proof.Machine

/-- `Annn` LD I, nnn (R120). -/
def execLdINnn (nnn : Addr) (s : State) : Host.Outcome State Fault Refusal := .next (s.setI (nnn.setWidth 16)).advance

/-- `Fx1E` ADD I, Vx (R121): 16-bit wrap, VF untouched (decision D8, log 15). -/
def execAddIVx (x : RegIx) (s : State) : Host.Outcome State Fault Refusal := .next (s.setI (s.i + (s.getV x).setWidth 16)).advance

/-- `Fx29` LD F, Vx (R122). -/
def execLdFVx (x : RegIx) (s : State) : Host.Outcome State Fault Refusal := .next (s.setI (glyphAddress (s.getV x))).advance

/-- `Fx33` LD B, Vx (R123): hundreds, tens, ones at `EA(0)`, `EA(1)`, `EA(2)`. -/
def execLdBVx (x : RegIx) (s : State) : Host.Outcome State Fault Refusal := .next (s.storeBytes 0 (decimalDigits (s.getV x))).advance

/-- `Fx55` LD [I], Vx (R124): `V[0]` to `V[x]` at `EA(0)` to `EA(x)`. -/
def execLdMemVx (x : RegIx) (s : State) : Host.Outcome State Fault Refusal := .next (s.storeBytes 0 (s.regsUpTo x)).advance

/-- `Fx65` LD Vx, [I] (R125): the bytes at `EA(0)` to `EA(x)` to `V[0]` to `V[x]`. -/
def execLdVxMem (x : RegIx) (s : State) : Host.Outcome State Fault Refusal := .next (s.setRegs 0 (s.loadBytes (x.toNat + 1))).advance

end Sys2Proof.Machine
end

