-- ==== Sys2Proof/Machine/Keys.lean ====
section
/-! DEFINITION. Keypad and timer instructions and the waiting step (spec/46_keys_timers.md R140 to R146). -/

namespace Sys2Proof.Machine

/-- `Ex9E` SKP (R140): skip if the key is pressed in this step. -/
def execSkp (x : RegIx) (s : State) : Host.Outcome State Fault Refusal := .next (s.skipIf (s.keyPressed (keyNumber (s.getV x))))

/-- `ExA1` SKNP (R141): skip if it is not. -/
def execSknp (x : RegIx) (s : State) : Host.Outcome State Fault Refusal := .next (s.skipIf (!s.keyPressed (keyNumber (s.getV x))))

/-- `Fx07` LD Vx, DT (R142). -/
def execLdVxDt (x : RegIx) (s : State) : Host.Outcome State Fault Refusal := .next (s.setV x s.dt).advance

/-- `Fx0A` LD Vx, K (R143): only starts the wait; the keys are not looked at and `pc` keeps the instruction's address
(decision D10, log 17). -/
def execLdVxK (x : RegIx) (s : State) : Host.Outcome State Fault Refusal := .next { s with waitX := x, mode := .awaitingKey }

/-- `Fx15` LD DT, Vx (R144). -/
def execLdDtVx (x : RegIx) (s : State) : Host.Outcome State Fault Refusal := .next (s.setDt (s.getV x)).advance

/-- `Fx18` LD ST, Vx (R145). -/
def execLdStVx (x : RegIx) (s : State) : Host.Outcome State Fault Refusal := .next (s.setSt (s.getV x)).advance

/-- The end of a wait: `V[WAITX]` gets the key, `pc` moves past the instruction, the core runs again (R146). -/
def State.endWait (s : State) (k : Nibble) : State := { (s.setV s.waitX (k.setWidth 8)).advance with mode := .running }

/-- `AwaitStep(key)` (R146): one look at the keys; with none pressed nothing changes. -/
def awaitStep (s : State) : State := if s.key = 0 then s else s.endWait (keyPick s.key s.pick)

end Sys2Proof.Machine
end

