-- ==== Sys2Proof/Machine/Skip.lean ====
section
/-! DEFINITION. Conditional skips on registers: SE, SNE (spec/41_skip.md R90 to R93). -/

namespace Sys2Proof.Machine

/-- `3xnn` SE Vx, nn (R90). -/
def execSeVxNn (x : RegIx) (nn : Byte) (s : State) : Host.Outcome State Fault Refusal := .next (s.skipIf (s.getV x == nn))

/-- `4xnn` SNE Vx, nn (R91). -/
def execSneVxNn (x : RegIx) (nn : Byte) (s : State) : Host.Outcome State Fault Refusal := .next (s.skipIf (s.getV x != nn))

/-- `5xy0` SE Vx, Vy (R92). -/
def execSeVxVy (x y : RegIx) (s : State) : Host.Outcome State Fault Refusal := .next (s.skipIf (s.getV x == s.getV y))

/-- `9xy0` SNE Vx, Vy (R93). -/
def execSneVxVy (x y : RegIx) (s : State) : Host.Outcome State Fault Refusal := .next (s.skipIf (s.getV x != s.getV y))

end Sys2Proof.Machine
end

