-- ==== Sys2Proof/Machine/Cycle.lean ====
section
/-! DEFINITION. The `Cycle` step of the core (spec/00_scope.md R11), on a state whose inputs are sampled. -/

namespace Sys2Proof.Machine

/-- The word decoded and executed; a word that is no instruction raises its fault (R66, R154). -/
def runWord (op : Word) (s : State) : Host.Outcome State Fault Refusal :=
  match decodeWord op with
  | .ok i => exec i s
  | .error e => .next (s.raise (faultOfDecodeError e) s.pc op)

/-- `Cycle(key, rnd)` (R11) when `HALT == 0`: one look at the keys while waiting, else fetch, decode, execute, with
`PcOutOfBounds` where there is no word to fetch (spec/20_memory.md R43). -/
def cycle (s : State) : Host.Outcome State Fault Refusal :=
  match s.mode with
  | .awaitingKey => .next (awaitStep s)
  | .running =>
    match s.fetchWord with
    | none => .next (s.raise .pcOutOfBounds s.pc 0x0000#16)
    | some op => runWord op s

/-- The state made ready to fetch: the core runs, no `Tick` comes first, and `pc` is an address a fetch can use (log 5). -/
def State.readyToFetch (s : State) : State :=
  { s with halt := false, mode := .running, ticksDue := 0, pc := if s.pc ≤ 0xFFE#16 then s.pc else Config.progBase }

/-- A word stored at `pc` and `pc + 1`, high byte first (R42). -/
def State.storeWordAtPc (s : State) (op : Word) : State :=
  (s.writeByte (s.pc.setWidth 12) (op.extractLsb' 8 8)).writeByte ((s.pc + 1).setWidth 12) (op.extractLsb' 0 8)

end Sys2Proof.Machine
end

