-- ==== Sys2Proof/Machine/Step.lean ====
section
/-! DEFINITION. One atomic step of the machine (spec/00_scope.md R10, R11, spec/60_exceptions.md R159 to R161). -/

namespace Sys2Proof.Machine

/-- One step of the core or of the timer; `ticksDue` says whose turn it is (R161, log 3). A halted machine has no step (R159). -/
def step (s : State) : Host.Outcome State Fault Refusal :=
  if s.halt then .fault .halted
  else if s.ticksDue ≠ 0 then .next s.tickStep
  else cycle s.sample

/-- The state with the word of a table row where the next step fetches it (log 5). -/
def State.withFetchWord (s : State) (nbits w : Nat) : State := s.readyToFetch.storeWordAtPc (tableWord nbits w)

end Sys2Proof.Machine
end

