-- ==== Sys2Proof/Machine/Signals.lean ====
section
/-! DEFINITION. The host's side (spec/00_scope.md R9, R10): the outputs it reads, which change nothing, and the program load
between reset and the first `Cycle` step (spec/70_reset_and_hazards.md R182 to R184). -/

namespace Sys2Proof.Machine

/-- The one-bit encoding of `MODE` (spec/10_state.md R32): 0 = `Running`, 1 = `AwaitingKey`. -/
def Mode.bit : Mode → BitVec 1
  | .running => 0
  | .awaitingKey => 1

/-- The output `fb(x, y)`: `FB[y][x]`. -/
def State.fbOut (s : State) (x : Fin 64) (y : Fin 32) : Bool := s.pixel (x, y)

/-- The output `sound`: 1 exactly when `ST != 0` (R26). -/
def State.soundOut (s : State) : Bool := s.st != 0

/-- The output `waiting`: 1 exactly when `MODE == AwaitingKey`. -/
def State.waitingOut (s : State) : Bool := s.mode == .awaitingKey

/-- The output `halt`: 1 after a fault. -/
def State.haltOut (s : State) : Bool := s.halt

/-- The output `fault_kind`, three bits (spec/60_exceptions.md R150). -/
def State.faultKindOut (s : State) : BitVec 3 := s.faultKind.code

/-- The output `fault_pc`. -/
def State.faultPcOut (s : State) : Word := s.faultPc

/-- The output `fault_op`. -/
def State.faultOpOut (s : State) : Word := s.faultOp

/-- `load(addr, byte)` for the bytes of a ROM in turn, the first at address `a` (R183). -/
def State.loadAt (s : State) (a : Nat) : List Byte → State
  | [] => s
  | b :: rest => (s.writeByte (BitVec.ofNat 12 a) b).loadAt (a + 1) rest

/-- The ROM written verbatim from `0x200` (R183). -/
def State.loadRom (s : State) (rom : List Byte) : State := s.loadAt Config.progBase.toNat rom

/-- The launch state of a run (R182, R183): reset, then the load. A ROM of more than 3584 bytes is not loaded at all, which is the
loader's fault and not the core's (R184, R165). -/
def launch (rom : List Byte) : Option State := if romFits rom then some (State.reset.loadRom rom) else none

end Sys2Proof.Machine
end

