-- ==== Sys2Proof/Safety.lean ====
section
/-! DEFINITION. The terms claims are stated in: what two states share, what an instruction may write, and the invariants of the
machine. -/

namespace Sys2Proof.Machine

/-- The parts of the state (spec/10_state.md section 1); `inputs` is the model's own five fields (logs 1 to 3). -/
inductive Part where
  | regs | index | pc | stack | delay | sound | screen | memory | wait | fault | inputs
  deriving DecidableEq, Repr

/-- A part reads the same in both states. -/
def Part.same (s t : State) : Part → Prop
  | .regs => ∀ z, t.getV z = s.getV z
  | .index => t.i = s.i
  | .pc => t.pc = s.pc
  | .stack => t.sp = s.sp ∧ ∀ k, t.stkAt k = s.stkAt k
  | .delay => t.dt = s.dt
  | .sound => t.st = s.st
  | .screen => ∀ p, t.pixel p = s.pixel p
  | .memory => ∀ a, t.readByte a = s.readByte a
  | .wait => t.mode = s.mode ∧ t.waitX = s.waitX
  | .fault => t.halt = s.halt ∧ t.faultKind = s.faultKind ∧ t.faultPc = s.faultPc ∧ t.faultOp = s.faultOp
  | .inputs => t.key = s.key ∧ t.rnd = s.rnd ∧ t.pick = s.pick ∧ t.draws = s.draws ∧ t.ticksDue = s.ticksDue

/-- Every part but the listed ones reads the same in `t` as in `s`: the frame of a change from `s` to `t`. -/
def onlyChanges (parts : List Part) (s t : State) : Prop := ∀ p, p ∉ parts → p.same s t

/-- The parts an instruction may write: the writers that spec/10_state.md R20 to R32 name for each piece of state. -/
def partsWritten : Instr → List Part
  | .cls => [.screen, .pc]
  | .ret | .call _ => [.stack, .pc, .fault]
  | .jp _ | .jpV0 _ => [.pc]
  | .seVxNn _ _ | .sneVxNn _ _ | .seVxVy _ _ | .sneVxVy _ _ | .skp _ | .sknp _ => [.pc]
  | .ldVxNn _ _ | .addVxNn _ _ | .rndVxNn _ _ | .ldVxDt _ | .ldVxMem _ => [.regs, .pc]
  | .ldVxVy _ _ | .orVxVy _ _ | .andVxVy _ _ | .xorVxVy _ _ => [.regs, .pc]
  | .addVxVy _ _ | .subVxVy _ _ | .shrVx _ _ | .subnVxVy _ _ | .shlVx _ _ => [.regs, .pc]
  | .ldINnn _ | .addIVx _ | .ldFVx _ => [.index, .pc]
  | .drw _ _ _ => [.screen, .regs, .pc]
  | .ldVxK _ => [.wait]
  | .ldDtVx _ => [.delay, .pc]
  | .ldStVx _ => [.sound, .pc]
  | .ldBVx _ | .ldMemVx _ => [.memory, .pc]

/-- The instruction may write register `z`: as its destination, as a register of its range, or as the flag (R20, R21). -/
def writesReg (z : RegIx) : Instr → Bool
  | .ldVxNn x _ | .addVxNn x _ | .rndVxNn x _ | .ldVxDt x => z == x
  | .ldVxVy x _ | .orVxVy x _ | .andVxVy x _ | .xorVxVy x _ => z == x
  | .addVxVy x _ | .subVxVy x _ | .shrVx x _ | .subnVxVy x _ | .shlVx x _ => z == x || z == 15#4
  | .drw _ _ _ => z == 15#4
  | .ldVxMem x => decide (z.toNat ≤ x.toNat)
  | .cls | .ret | .call _ | .jp _ | .jpV0 _ => false
  | .seVxNn _ _ | .sneVxNn _ _ | .seVxVy _ _ | .sneVxVy _ _ | .skp _ | .sknp _ => false
  | .ldINnn _ | .addIVx _ | .ldFVx _ | .ldVxK _ | .ldDtVx _ | .ldStVx _ | .ldBVx _ | .ldMemVx _ => false

/-- The six instructions that write VF as a flag (R21). -/
def writesFlag : Instr → Bool
  | .addVxVy _ _ | .subVxVy _ _ | .shrVx _ _ | .subnVxVy _ _ | .shlVx _ _ | .drw _ _ _ => true
  | .cls | .ret | .call _ | .jp _ | .jpV0 _ => false
  | .seVxNn _ _ | .sneVxNn _ _ | .seVxVy _ _ | .sneVxVy _ _ | .skp _ | .sknp _ => false
  | .ldVxNn _ _ | .addVxNn _ _ | .rndVxNn _ _ | .ldVxDt _ | .ldVxMem _ => false
  | .ldVxVy _ _ | .orVxVy _ _ | .andVxVy _ _ | .xorVxVy _ _ => false
  | .ldINnn _ | .addIVx _ | .ldFVx _ | .ldVxK _ | .ldDtVx _ | .ldStVx _ | .ldBVx _ | .ldMemVx _ => false

/-- The sprite of `Dxyn` has a 1 bit at this pixel (spec/45_display.md R132 (a), (b)): bit `7 - c` of the byte at `EA(r)`, for the
pixel in column `(V[x] + c) mod 64` and row `(V[y] + r) mod 32`. -/
def State.spriteCovers (s : State) (x y : RegIx) (n : Nibble) (p : Pixel) : Prop :=
  ∃ r c, r < n.toNat ∧ c < 8 ∧ (s.readByte (s.ea r)).getLsbD (7 - c) = true ∧
    p.1.val = ((s.getV x).toNat + c) % 64 ∧ p.2.val = ((s.getV y).toNat + r) % 32

/-- The convention of the spec's test programs for a finished program (spec/00_scope.md R13, decision D24): `pc` is at a `JP` whose
target is its own address. No hardware behaviour. -/
def State.atSelfJump (s : State) : Prop :=
  s.mode = .running ∧ s.fetchWord = some (0x1#4 ++ s.pc.setWidth 12)

/-! ### Invariants -/

/-- Memory has its canonical form. -/
def State.memoryCanonical (s : State) : Prop := Memory.wf s.mem = true

/-- The bounds of spec/10_state.md R23 (c): `pc` never passes `0x10FE`, no saved address passes `0x1000`, and a wait stands at an
instruction that was fetched. -/
def State.addressesBounded (s : State) : Prop :=
  s.pc.toNat ≤ 0x10FE ∧ (∀ k, (s.stkAt k).toNat ≤ 0x1000) ∧ (s.mode = .awaitingKey → s.pc.toNat ≤ 0xFFE)

/-- The fault a halted state records fits the state (spec/60_exceptions.md R150 to R155). -/
def State.faultFits (s : State) : Prop :=
  match s.faultKind with
  | .pcOutOfBounds => 0xFFE < s.pc.toNat ∧ s.faultOp = 0
  | .stackOverflow => s.sp.val = 16 ∧ s.fetchWord = some s.faultOp ∧ ∃ nnn, decodeWord s.faultOp = .ok (.call nnn)
  | .stackUnderflow => s.sp.val = 0 ∧ s.fetchWord = some s.faultOp ∧ decodeWord s.faultOp = .ok .ret
  | .unusedSubOpcode => s.fetchWord = some s.faultOp ∧ legalWord s.faultOp = false
  | .unknownFamily | .noFault => False

/-- The fault record tells the truth: all zero while the machine is not halted, and once it is halted the kind, the address and
the word of the instruction that `pc` still points at (R31, R158). -/
def State.recordTruthful (s : State) : Prop :=
  (s.halt = false → s.faultKind = .noFault ∧ s.faultPc = 0 ∧ s.faultOp = 0) ∧
  (s.halt = true → s.mode = .running ∧ s.faultPc = s.pc ∧ s.faultFits)

end Sys2Proof.Machine
end

