-- ==== Sys2Proof/Certificates/Slice0/Obligations.lean ====
section
/-! DEFINITION. The statements for the provers. Each docstring says what is stated and names the rule or section of spec/ it comes
from; where a clause rests on a decision of spec/92_eei_decisions.md it names the decision and the log entry. -/

open Sys2Proof Sys2Proof.Machine

/-- O1. One word per family from the table of section 2.1 and the examples of the instruction rules decodes to the instruction it
stands for, and three illegal words are refused by name (0x01E0 rests on decision D1, log 10). [derived:
spec/95_test_vectors.md section 2.1, spec/30_encoding.md R64, R65] -/
def Obligations.SampleWordsDecode : Prop :=
  decodeWord 0x00E0#16 = .ok .cls ∧ decodeWord 0x00EE#16 = .ok .ret ∧ decodeWord 0x1ABC#16 = .ok (.jp 0xABC#12) ∧
  decodeWord 0x3A7F#16 = .ok (.seVxNn 10 0x7F#8) ∧ decodeWord 0x5AB0#16 = .ok (.seVxVy 10 11) ∧
  decodeWord 0x6A2C#16 = .ok (.ldVxNn 10 0x2C#8) ∧ decodeWord 0x8127#16 = .ok (.subnVxVy 1 2) ∧
  decodeWord 0xB300#16 = .ok (.jpV0 0x300#12) ∧ decodeWord 0xD12F#16 = .ok (.drw 1 2 15) ∧
  decodeWord 0xE1A1#16 = .ok (.sknp 1) ∧ decodeWord 0xF165#16 = .ok (.ldVxMem 1) ∧
  decodeWord 0x01E0#16 = .error .unusedSubOpcode ∧ decodeWord 0x8AB8#16 = .error .unusedSubOpcode ∧
  decodeWord 0xF175#16 = .error .unusedSubOpcode

/-- O2. For every instruction, with every operand at every value, the bytes of its word followed by any bytes decode to that
instruction and leave those bytes. [derived: spec/30_encoding.md section 1 (R61, R62), spec/30_encoding.md section 3 (R64,
R65)] -/
def Obligations.DecodeOfEncodeIsIdentity : Prop :=
  ∀ (i : Instr) (rest : List Byte), decodeWord (encode i) = .ok i ∧ decode (bytesOfWord (encode i) ++ rest) = .ok (i, rest)

/-- O3. If a word decodes to an instruction, that instruction is encoded by exactly this word: each legal word has one meaning,
and decoding loses no bit, the ignored y field of the shifts included. [derived: spec/30_encoding.md section 3 (R64),
spec/30_encoding.md section 4 (R69)] -/
def Obligations.EncodeOfDecodeIsIdentity : Prop :=
  ∀ (op : Word) (i : Instr), decodeWord op = .ok i → encode i = op

/-- O4. For every word: either it decodes to an instruction and the first row of the opcode map that covers it bears that
instruction's mnemonic, or no row covers it and the decoder refuses it as an unused sub-opcode, never as an unknown family.
[derived: spec/30_encoding.md section 3 (R64, R65), spec/30_encoding.md section 4 (R66, R67)] -/
def Obligations.DecoderAgreesWithOpcodeMap : Prop :=
  ∀ op : Word,
    (∃ i r, decodeWord op = .ok i ∧ rowOf op = some r ∧ r.mnemonic = i.mnemonic) ∨
    (decodeWord op = .error .unusedSubOpcode ∧ legalWord op = false)

/-- O5. For pc at most 0xFFE, the fetched word is the byte at pc times 256 plus the byte at pc + 1. [stated: R42] -/
def Obligations.FetchIsBigEndian : Prop :=
  ∀ (s : State) (a b : Addr), a.toNat = s.pc.toNat → b.toNat = s.pc.toNat + 1 →
    ∃ op, s.fetchWord = some op ∧ op.toNat = (s.readByte a).toNat * 256 + (s.readByte b).toNat

/-- O6. When the machine is not halted, no Tick is due, the core is running and the bytes at pc decode to i, the step is exec of i
on the state with the inputs of this Cycle step sampled. Sampling writes the model's own fields only (logs 1 to 3): key, rnd
and pick from the open inputs, the number of Ticks that follow, and the draw counter. [derived: spec/00_scope.md section 7
(R11), spec/20_memory.md section 2 (R42)] -/
def Obligations.StepRunsDecodedInstruction : Prop :=
  ∀ (s : State) (a b : Addr) (i : Instr), s.halt = false → s.ticksDue = 0 → s.mode = .running →
    a.toNat = s.pc.toNat → b.toNat = s.pc.toNat + 1 → decode [s.readByte a, s.readByte b] = .ok (i, []) →
    step s = exec i s.sample ∧ onlyChanges [.inputs] s s.sample ∧ s.sample.draws = s.draws + 1 ∧
    s.sample.key = Config.keyInput s.draws ∧ s.sample.rnd = Config.rndInput s.draws ∧
    s.sample.pick = Config.pickInput s.draws ∧ s.sample.ticksDue = Config.ticksAfter s.draws

/-- O7. For every state and every 16-bit word that decodes, the step after withFetchWord executes that instruction, and at reset
withFetchWord writes memory only (log 5). [derived: spec/00_scope.md section 7 (R11), spec/20_memory.md section 2 (R42)] -/
def Obligations.PlacedWordRunsNext : Prop :=
  (∀ (s : State) (w : Nat) (i : Instr), decodeTableWord 16 w = some i →
    step (s.withFetchWord 16 w) = exec i (s.withFetchWord 16 w).sample) ∧
  ∀ w : Nat, onlyChanges [.memory] State.reset (State.reset.withFetchWord 16 w)

/-- O8. raise K(p, w) sets HALT, the code of K, the address and the word, and changes no other state; the codes are 1 to 5
(decisions D15 and D16, logs 6 and 19). [derived: spec/60_exceptions.md section 1 (R150, R158)] -/
def Obligations.FaultEntryWritesRecordOnly : Prop :=
  ∀ (s : State) (k : FaultKind) (p w : Word),
    (s.raise k p w).haltOut = true ∧ (s.raise k p w).faultKindOut = k.code ∧ (s.raise k p w).faultPcOut = p ∧
    (s.raise k p w).faultOpOut = w ∧ onlyChanges [.fault] s (s.raise k p w) ∧
    FaultKind.code .noFault = 0 ∧ FaultKind.code .pcOutOfBounds = 1 ∧ FaultKind.code .stackOverflow = 2 ∧
    FaultKind.code .stackUnderflow = 3 ∧ FaultKind.code .unusedSubOpcode = 4 ∧ FaultKind.code .unknownFamily = 5

/-- O9. Running, not halted, no Tick due, pc above 0xFFE: the step raises PcOutOfBounds with FAULT_PC the bad value and FAULT_OP
zero and keeps all other state (decisions D3 and D16, logs 11 and 19; that this is a next state: DESIGN CHOICE, log 6); in a
wait no fetch is made and no such fault arises. [derived: spec/20_memory.md section 2 (R43), spec/60_exceptions.md section 1
(R151)] -/
def Obligations.FetchOutOfBoundsFaults : Prop :=
  ∀ s : State, s.halt = false → s.ticksDue = 0 → 0xFFE < s.pc.toNat →
    (s.mode = .running → ∃ t, step s = .next t ∧ t.halt = true ∧ t.faultKind = .pcOutOfBounds ∧ t.faultPc = s.pc ∧
      t.faultOp = 0 ∧ onlyChanges [.fault, .inputs] s t) ∧
    (s.mode = .awaitingKey → ∃ t, step s = .next t ∧ t.halt = false)

/-- O10. Running, not halted, no Tick due, and the fetched word is on no row of the opcode map: the step raises UnusedSubOpcode
with the address of the word and the word and keeps all other state (decisions D1, D2, D15, D16, logs 10 and 19; that this is
a next state: DESIGN CHOICE, log 6). [derived: spec/30_encoding.md section 4 (R66), spec/60_exceptions.md section 1 (R154)] -/
def Obligations.IllegalWordFaults : Prop :=
  ∀ (s : State) (op : Word), s.halt = false → s.ticksDue = 0 → s.mode = .running → s.fetchWord = some op →
    legalWord op = false → ∃ t, step s = .next t ∧ t.halt = true ∧ t.faultKind = .unusedSubOpcode ∧ t.faultPc = s.pc ∧
      t.faultOp = op ∧ onlyChanges [.fault, .inputs] s t

/-- O11. A halted machine has no step (the stuck state Fault.halted, decision D17, log 6), and only reset leaves it; every state
that is not halted has a next state, with no refusal and no other fault. [derived: spec/00_scope.md section 7 (R11, R12),
spec/60_exceptions.md section 1 (R159)] -/
def Obligations.OnlyHaltedStatesHaveNoStep : Prop :=
  ∀ s : State, (s.halt = true → step s = .fault .halted ∧ s.tick = s ∧ s.hostReset = State.reset) ∧
    (s.halt = false → ∃ t, step s = .next t)

/-- O12. If a step halts the machine, every part of the state but the fault record reads as before the step, FAULT_PC is the pc of
the faulting instruction, and the kind is one of the four that can be raised (decision D16, log 19; that the halted state is a
next state: DESIGN CHOICE, log 6). [derived: spec/60_exceptions.md section 1 (R157, R158), spec/60_exceptions.md section 1
(R155)] -/
def Obligations.FaultsArePrecise : Prop :=
  ∀ s t : State, s.halt = false → step s = .next t → t.halt = true →
    onlyChanges [.fault, .inputs] s t ∧ t.faultPc = s.pc ∧
    (t.faultKind = .pcOutOfBounds ∨ t.faultKind = .stackOverflow ∨ t.faultKind = .stackUnderflow ∨
      t.faultKind = .unusedSubOpcode)

/-- O13. With no Tick due, the step from a state does not depend on what the fields key, rnd and pick hold before it: the core
keeps no copy of an earlier sample (the fields are the model's own, logs 1 and 2). [derived: spec/10_state.md section 9 (R29),
spec/10_state.md section 12 (R34)] -/
def Obligations.StaleInputsAreNotRead : Prop :=
  ∀ (s : State) (key : Word) (rnd : Byte) (pick : Nibble), s.ticksDue = 0 → step (s.latch key rnd pick) = step s

/-- O14. Not halted, a Tick lowers DT and ST by one each, a timer at 0 staying at 0, and touches nothing else, in either mode;
halted, nothing changes (decision D17, log 6). A step with a Tick due is this Tick and lowers ticksDue by one: ticksDue is the
model's own schedule counter (DESIGN CHOICE, log 3), of which R160 does not speak. [derived: spec/60_exceptions.md section 3
(R160), spec/60_exceptions.md section 1 (R159)] -/
def Obligations.TickLowersBothTimers : Prop :=
  ∀ s : State, (s.halt = true → s.tick = s) ∧
    (s.halt = false → s.tick.dt.toNat = s.dt.toNat - 1 ∧ s.tick.st.toNat = s.st.toNat - 1 ∧
      onlyChanges [.delay, .sound] s s.tick ∧
      (s.ticksDue ≠ 0 → ∃ t, step s = .next t ∧ t.dt = s.tick.dt ∧ t.st = s.tick.st ∧ t.ticksDue = s.ticksDue - 1 ∧
        onlyChanges [.delay, .sound, .inputs] s t))

/-- O15. From a state that is not halted, n Tick steps leave DT at max(DT - n, 0) and ST at max(ST - n, 0). [derived:
spec/60_exceptions.md section 3 (R160, R162), spec/95_test_vectors.md section 1 (S9)] -/
def Obligations.TicksCountDownToZero : Prop :=
  ∀ (s : State) (n : Nat), s.halt = false →
    (State.tick^[n] s).dt.toNat = s.dt.toNat - n ∧ (State.tick^[n] s).st.toNat = s.st.toNat - n

/-- O16. If a step leaves DT higher than before, no Tick was due, the core was running and the fetched word is Fx15. [derived:
spec/60_exceptions.md section 3 (R162), spec/10_state.md section 6 (R25)] -/
def Obligations.DelayTimerRisesOnlyByItsWrite : Prop :=
  ∀ s t : State, step s = .next t → s.dt.toNat < t.dt.toNat →
    s.ticksDue = 0 ∧ s.mode = .running ∧ ∃ op x, s.fetchWord = some op ∧ decodeWord op = .ok (.ldDtVx x)

/-- O17. The word 0x00E0 is CLS; it turns all 2048 pixels off, moves pc by 2 and changes nothing else, VF included. [stated: R130] -/
def Obligations.ClearScreen : Prop :=
  decodeWord 0x00E0#16 = .ok .cls ∧
  ∀ s : State, ∃ t, exec .cls s = .next t ∧ (∀ p, t.pixel p = false) ∧ t.pc = s.pc + 2 ∧ onlyChanges [.screen, .pc] s t

/-- O18. Dxyn inverts exactly the pixels the sprite covers, wrapped per pixel, sets VF to 1 if one of them was on and to 0
otherwise (so to 0 for n = 0), moves pc by 2 and changes nothing else; the origin is read before VF is written. Bit order,
wrapped reads, flag order and n = 0 are decisions D22, D5, D7 and D29 (logs 18, 13, 14). [derived: spec/45_display.md (R131,
R132), spec/20_memory.md section 5 (R46)] -/
def Obligations.DrawSprite : Prop :=
  ∀ (x y : RegIx) (n : Nibble) (s : State), decodeWord (0xD#4 ++ x ++ y ++ n) = .ok (.drw x y n) ∧
    ∃ t, exec (.drw x y n) s = .next t ∧
      (∀ p, s.spriteCovers x y n p → t.pixel p = !s.pixel p) ∧
      (∀ p, ¬ s.spriteCovers x y n p → t.pixel p = s.pixel p) ∧
      ((∃ p, s.spriteCovers x y n p ∧ s.pixel p = true) → t.getV 15#4 = 1) ∧
      (¬ (∃ p, s.spriteCovers x y n p ∧ s.pixel p = true) → t.getV 15#4 = 0) ∧
      (∀ z, z ≠ 15#4 → t.getV z = s.getV z) ∧ t.pc = s.pc + 2 ∧ onlyChanges [.screen, .regs, .pc] s t

/-- O19. With x and y other than VF, a second DRW restores every pixel; from a cleared screen the first leaves VF 0 and the second
sets VF 1 if the sprite has a 1 bit (D22, log 18). [derived: spec/45_display.md (R131, R132), spec/95_test_vectors.md section
1 (S7)] -/
def Obligations.DrawingTwiceCancels : Prop :=
  ∀ (x y : RegIx) (n : Nibble) (s : State), x ≠ 15#4 → y ≠ 15#4 →
    ∃ t u, exec (.drw x y n) s = .next t ∧ exec (.drw x y n) t = .next u ∧ (∀ p, u.pixel p = s.pixel p) ∧
      ((∀ p, s.pixel p = false) → t.getV 15#4 = 0 ∧ ((∃ p, s.spriteCovers x y n p) → u.getV 15#4 = 1))

/-- O20. The word 0x00EE is RET; with a depth of k + 1 it sets pc to STK[k] as it is and the depth to k, clears no entry (decision
D28, log 8) and changes nothing else; with an empty stack it raises StackUnderflow(pc, 0x00EE) on the unchanged state: that
this fault entry is a next state is the model's form (DESIGN CHOICE, log 6), and that nothing of the step is kept is decision
D16 (log 19). [derived: spec/40_flow.md, 00EE: RET (R80), spec/60_exceptions.md section 1 (R153, R158)] -/
def Obligations.ReturnPopsIntoPc : Prop :=
  decodeWord 0x00EE#16 = .ok .ret ∧
  ∀ s : State,
    (∀ k : Fin 16, s.sp.val = k.val + 1 → ∃ t, exec .ret s = .next t ∧ t.pc = s.stkAt k ∧ t.sp.val = k.val ∧
      (∀ j, t.stkAt j = s.stkAt j) ∧ onlyChanges [.stack, .pc] s t) ∧
    (s.sp.val = 0 → exec .ret s = .next (s.raise .stackUnderflow s.pc 0x00EE#16))

/-- O21. The words 0x1nnn are JP nnn; pc becomes nnn zero-extended and nothing else changes; any target is accepted, odd ones
(decision D4, log 13), those below 0x200 and, in this step, 0xFFF (decision D3, log 11) included. [derived: spec/40_flow.md,
1nnn: JP nnn (R81), spec/20_memory.md section 4 (R45), spec/20_memory.md section 2 (R43)] -/
def Obligations.JumpSetsPc : Prop :=
  ∀ (nnn : Addr) (s : State), decodeWord (0x1#4 ++ nnn) = .ok (.jp nnn) ∧
    ∃ t, exec (.jp nnn) s = .next t ∧ t.pc.toNat = nnn.toNat ∧ onlyChanges [.pc] s t

/-- O22. The words 0x2nnn are CALL nnn; with a depth of k below 16 it stores pc + 2 in STK[k], sets the depth to k + 1 and pc to
nnn and changes nothing else; with a full stack it raises StackOverflow(pc, op) on the unchanged state: that this fault entry
is a next state is the model's form (DESIGN CHOICE, log 6), that it names the CALL and keeps nothing of the step is decision
D16 (log 19), and the recorded word is the encoding of the executed CALL (DEDUCED, log 22). The form of the stack is decision
D28 (log 8). [derived: spec/40_flow.md, 2nnn: CALL nnn (R82), spec/60_exceptions.md section 1 (R152, R158)] -/
def Obligations.CallPushesReturnAddress : Prop :=
  ∀ (nnn : Addr) (s : State), decodeWord (0x2#4 ++ nnn) = .ok (.call nnn) ∧
    (∀ k : Fin 16, s.sp.val = k.val → ∃ t, exec (.call nnn) s = .next t ∧ t.stkAt k = s.pc + 2 ∧
      (∀ j, j ≠ k → t.stkAt j = s.stkAt j) ∧ t.sp.val = k.val + 1 ∧ t.pc.toNat = nnn.toNat ∧
      onlyChanges [.stack, .pc] s t) ∧
    (s.sp.val = 16 → exec (.call nnn) s = .next (s.raise .stackOverflow s.pc (0x2#4 ++ nnn)))

/-- O23. The words 0xBnnn are JP V0, nnn; pc becomes nnn + V[0] as a 16-bit value, not reduced mod 4096 (decision D3, log 11),
with V0 whatever bits 11 to 8 are, and nothing else changes. [derived: spec/40_flow.md (R83)] -/
def Obligations.JumpV0AddsV0 : Prop :=
  ∀ (nnn : Addr) (s : State), decodeWord (0xB#4 ++ nnn) = .ok (.jpV0 nnn) ∧
    ∃ t, exec (.jpV0 nnn) s = .next t ∧ t.pc.toNat = nnn.toNat + (s.getV 0).toNat ∧ onlyChanges [.pc] s t

/-- O24. From any state with a depth below 16, CALL nnn and then RET leave pc at the CALL's address plus 2 and the depth as it
was. [derived: spec/40_flow.md (R80, R82), spec/95_test_vectors.md section 1 (S6)] -/
def Obligations.CallThenReturnRestoresPc : Prop :=
  ∀ (nnn : Addr) (s : State), s.sp.val < 16 →
    ∃ t u, exec (.call nnn) s = .next t ∧ exec .ret t = .next u ∧ u.pc = s.pc + 2 ∧ u.sp = s.sp ∧
      onlyChanges [.stack, .pc] s u

/-- O25. Along a chain of CALLs from an empty stack, after k of them, k at most 16, the depth is k and none has faulted; the
seventeenth raises StackOverflow on the state it found (decision D16, log 19; as a next state: DESIGN CHOICE, log 6; the
recorded word: DEDUCED, log 22). [derived: spec/40_flow.md (R82), spec/60_exceptions.md section 1 (R152),
spec/95_test_vectors.md section 1 (S10)] -/
def Obligations.SeventeenthNestedCallFaults : Prop :=
  ∀ (f : Nat → State) (target : Nat → Addr), (f 0).sp.val = 0 → (∀ k, exec (.call (target k)) (f k) = .next (f (k + 1))) →
    (∀ k, k ≤ 16 → (f k).sp.val = k ∧ (f k).halt = (f 0).halt) ∧
    f 17 = (f 16).raise .stackOverflow (f 16).pc (0x2#4 ++ target 16)

/-- O26. At a JP whose target is its own address, a Cycle step leaves the whole state as it is but for the inputs of the step (the
convention of decision D24). [derived: spec/00_scope.md section 7 (R13)] -/
def Obligations.SelfJumpRepeatsTheState : Prop :=
  ∀ s : State, s.atSelfJump → s.halt = false → s.ticksDue = 0 → ∃ t, step s = .next t ∧ onlyChanges [.inputs] s t

/-- O27. 0x3xnn moves pc by 4 if V[x] == nn and by 2 otherwise, 0x4xnn the other way round; neither changes anything else.
[stated: R90, R91] -/
def Obligations.SkipsAgainstImmediate : Prop :=
  ∀ (x : RegIx) (nn : Byte) (s : State),
    decodeWord (0x3#4 ++ x ++ nn) = .ok (.seVxNn x nn) ∧ decodeWord (0x4#4 ++ x ++ nn) = .ok (.sneVxNn x nn) ∧
    (∃ t, exec (.seVxNn x nn) s = .next t ∧ (s.getV x = nn → t.pc = s.pc + 4) ∧ (s.getV x ≠ nn → t.pc = s.pc + 2) ∧
      onlyChanges [.pc] s t) ∧
    (∃ t, exec (.sneVxNn x nn) s = .next t ∧ (s.getV x ≠ nn → t.pc = s.pc + 4) ∧ (s.getV x = nn → t.pc = s.pc + 2) ∧
      onlyChanges [.pc] s t)

/-- O28. 0x5xy0 moves pc by 4 if V[x] == V[y] and by 2 otherwise, 0x9xy0 the other way round; neither changes anything else; the
words of these families with another low nibble are illegal. [stated: R92, R93] -/
def Obligations.SkipsOnRegisters : Prop :=
  ∀ (x y : RegIx) (s : State),
    decodeWord (0x5#4 ++ x ++ y ++ 0x0#4) = .ok (.seVxVy x y) ∧ decodeWord (0x9#4 ++ x ++ y ++ 0x0#4) = .ok (.sneVxVy x y) ∧
    (∀ n : Nibble, n ≠ 0 → decodeWord (0x5#4 ++ x ++ y ++ n) = .error .unusedSubOpcode ∧
      decodeWord (0x9#4 ++ x ++ y ++ n) = .error .unusedSubOpcode) ∧
    (∃ t, exec (.seVxVy x y) s = .next t ∧ (s.getV x = s.getV y → t.pc = s.pc + 4) ∧
      (s.getV x ≠ s.getV y → t.pc = s.pc + 2) ∧ onlyChanges [.pc] s t) ∧
    (∃ t, exec (.sneVxVy x y) s = .next t ∧ (s.getV x ≠ s.getV y → t.pc = s.pc + 4) ∧
      (s.getV x = s.getV y → t.pc = s.pc + 2) ∧ onlyChanges [.pc] s t)

/-- O29. 0x6xnn writes nn to V[x], moves pc by 2 and changes nothing else; VF only when x is F. [stated: R100] -/
def Obligations.LoadImmediate : Prop :=
  ∀ (x : RegIx) (nn : Byte) (s : State), decodeWord (0x6#4 ++ x ++ nn) = .ok (.ldVxNn x nn) ∧
    ∃ t, exec (.ldVxNn x nn) s = .next t ∧ t.getV x = nn ∧ (∀ z, z ≠ x → t.getV z = s.getV z) ∧ t.pc = s.pc + 2 ∧
      onlyChanges [.regs, .pc] s t

/-- O30. 0x7xnn writes V[x] + nn mod 256 to V[x], moves pc by 2 and changes nothing else: VF is written only as V[x] itself.
[stated: R101] -/
def Obligations.AddImmediateWraps : Prop :=
  ∀ (x : RegIx) (nn : Byte) (s : State), decodeWord (0x7#4 ++ x ++ nn) = .ok (.addVxNn x nn) ∧
    ∃ t, exec (.addVxNn x nn) s = .next t ∧ (t.getV x).toNat = ((s.getV x).toNat + nn.toNat) % 256 ∧
      (∀ z, z ≠ x → t.getV z = s.getV z) ∧ t.pc = s.pc + 2 ∧ onlyChanges [.regs, .pc] s t

/-- O31. 0xCxnn writes the input byte of this step AND nn to V[x], whatever that byte is (decision D21, log 1), so the result is
at most nn; pc moves by 2 and nothing else changes. [derived: spec/42_immediate.md (R102)] -/
def Obligations.RandomByteIsMasked : Prop :=
  ∀ (x : RegIx) (nn : Byte) (s : State), decodeWord (0xC#4 ++ x ++ nn) = .ok (.rndVxNn x nn) ∧
    ∃ t, exec (.rndVxNn x nn) s = .next t ∧ (∀ k, (t.getV x).getLsbD k = (s.rnd.getLsbD k && nn.getLsbD k)) ∧
      t.getV x ≤ nn ∧ (∀ z, z ≠ x → t.getV z = s.getV z) ∧ t.pc = s.pc + 2 ∧ onlyChanges [.regs, .pc] s t

/-- O32. 0x8xy0 to 0x8xy3 write V[y], or the bitwise OR, AND or XOR of V[x] and V[y], to V[x], move pc by 2 and change nothing
else; VF is not cleared by OR, AND and XOR (decision D13, R119 (c), log 15). [derived: spec/43_alu.md section 2 (R110, R111,
R112, R113), spec/43_alu.md section 1 (R119)] -/
def Obligations.MoveAndLogic : Prop :=
  ∀ (x y : RegIx) (s : State),
    (decodeWord (0x8#4 ++ x ++ y ++ 0x0#4) = .ok (.ldVxVy x y) ∧
      ∃ t, exec (.ldVxVy x y) s = .next t ∧ t.getV x = s.getV y ∧ (∀ z, z ≠ x → t.getV z = s.getV z) ∧
        t.pc = s.pc + 2 ∧ onlyChanges [.regs, .pc] s t) ∧
    (decodeWord (0x8#4 ++ x ++ y ++ 0x1#4) = .ok (.orVxVy x y) ∧
      ∃ t, exec (.orVxVy x y) s = .next t ∧
        (∀ k, (t.getV x).getLsbD k = ((s.getV x).getLsbD k || (s.getV y).getLsbD k)) ∧
        (∀ z, z ≠ x → t.getV z = s.getV z) ∧ t.pc = s.pc + 2 ∧ onlyChanges [.regs, .pc] s t) ∧
    (decodeWord (0x8#4 ++ x ++ y ++ 0x2#4) = .ok (.andVxVy x y) ∧
      ∃ t, exec (.andVxVy x y) s = .next t ∧
        (∀ k, (t.getV x).getLsbD k = ((s.getV x).getLsbD k && (s.getV y).getLsbD k)) ∧
        (∀ z, z ≠ x → t.getV z = s.getV z) ∧ t.pc = s.pc + 2 ∧ onlyChanges [.regs, .pc] s t) ∧
    (decodeWord (0x8#4 ++ x ++ y ++ 0x3#4) = .ok (.xorVxVy x y) ∧
      ∃ t, exec (.xorVxVy x y) s = .next t ∧
        (∀ k, (t.getV x).getLsbD k = ((s.getV x).getLsbD k ^^ (s.getV y).getLsbD k)) ∧
        (∀ z, z ≠ x → t.getV z = s.getV z) ∧ t.pc = s.pc + 2 ∧ onlyChanges [.regs, .pc] s t)

/-- O33. 0x8xy4 writes the sum mod 256 to V[x] and then 1 to VF if the sum is above 255, else 0; with x = F VF ends as the carry,
and the operands are read first (decision D7, R119 (d), log 14); pc moves by 2 and nothing else changes. [derived:
spec/43_alu.md section 3 (R114), spec/43_alu.md section 1 (R119)] -/
def Obligations.AddRegistersSetsCarry : Prop :=
  ∀ (x y : RegIx) (s : State), decodeWord (0x8#4 ++ x ++ y ++ 0x4#4) = .ok (.addVxVy x y) ∧
    ∃ t, exec (.addVxVy x y) s = .next t ∧
      (x ≠ 15#4 → (t.getV x).toNat = ((s.getV x).toNat + (s.getV y).toNat) % 256) ∧
      (255 < (s.getV x).toNat + (s.getV y).toNat → t.getV 15#4 = 1) ∧
      ((s.getV x).toNat + (s.getV y).toNat ≤ 255 → t.getV 15#4 = 0) ∧
      (∀ z, z ≠ x → z ≠ 15#4 → t.getV z = s.getV z) ∧ t.pc = s.pc + 2 ∧ onlyChanges [.regs, .pc] s t

/-- O34. 0x8xy5 writes V[x] - V[y] and 0x8xy7 writes V[y] - V[x], mod 256, to V[x], and then 1 to VF if no borrow was needed, else
0; with x = F VF ends as the flag, and the operands are read first (decision D7, R119 (d), log 14); pc moves by 2 and nothing
else changes. [derived: spec/43_alu.md section 3 (R115, R117), spec/43_alu.md section 1 (R119)] -/
def Obligations.SubtractSetsNotBorrow : Prop :=
  ∀ (x y : RegIx) (s : State),
    (decodeWord (0x8#4 ++ x ++ y ++ 0x5#4) = .ok (.subVxVy x y) ∧
      ∃ t, exec (.subVxVy x y) s = .next t ∧
        (x ≠ 15#4 → (t.getV x).toNat = ((s.getV x).toNat + 256 - (s.getV y).toNat) % 256) ∧
        ((s.getV y).toNat ≤ (s.getV x).toNat → t.getV 15#4 = 1) ∧ ((s.getV x).toNat < (s.getV y).toNat → t.getV 15#4 = 0) ∧
        (∀ z, z ≠ x → z ≠ 15#4 → t.getV z = s.getV z) ∧ t.pc = s.pc + 2 ∧ onlyChanges [.regs, .pc] s t) ∧
    (decodeWord (0x8#4 ++ x ++ y ++ 0x7#4) = .ok (.subnVxVy x y) ∧
      ∃ t, exec (.subnVxVy x y) s = .next t ∧
        (x ≠ 15#4 → (t.getV x).toNat = ((s.getV y).toNat + 256 - (s.getV x).toNat) % 256) ∧
        ((s.getV x).toNat ≤ (s.getV y).toNat → t.getV 15#4 = 1) ∧ ((s.getV y).toNat < (s.getV x).toNat → t.getV 15#4 = 0) ∧
        (∀ z, z ≠ x → z ≠ 15#4 → t.getV z = s.getV z) ∧ t.pc = s.pc + 2 ∧ onlyChanges [.regs, .pc] s t)

/-- O35. 0x8xy6 halves V[x] and 0x8xyE doubles it mod 256, and then VF gets the bit shifted out; the y field is ignored, all its
values behave the same; with x = F VF ends as the bit (decision D7, log 14); pc moves by 2 and nothing else changes. [derived:
spec/43_alu.md sections 1 and 4 (R116, R118, R119), spec/30_encoding.md section 4 (R69)] -/
def Obligations.ShiftsMoveOneBitIntoFlag : Prop :=
  ∀ (x y : RegIx) (s : State),
    (decodeWord (0x8#4 ++ x ++ y ++ 0x6#4) = .ok (.shrVx x y) ∧ (∀ y', exec (.shrVx x y') s = exec (.shrVx x y) s) ∧
      ∃ t, exec (.shrVx x y) s = .next t ∧ (x ≠ 15#4 → (t.getV x).toNat = (s.getV x).toNat / 2) ∧
        (t.getV 15#4).toNat = (s.getV x).toNat % 2 ∧ (∀ z, z ≠ x → z ≠ 15#4 → t.getV z = s.getV z) ∧
        t.pc = s.pc + 2 ∧ onlyChanges [.regs, .pc] s t) ∧
    (decodeWord (0x8#4 ++ x ++ y ++ 0xE#4) = .ok (.shlVx x y) ∧ (∀ y', exec (.shlVx x y') s = exec (.shlVx x y) s) ∧
      ∃ t, exec (.shlVx x y) s = .next t ∧ (x ≠ 15#4 → (t.getV x).toNat = 2 * (s.getV x).toNat % 256) ∧
        (t.getV 15#4).toNat = (s.getV x).toNat / 128 ∧ (∀ z, z ≠ x → z ≠ 15#4 → t.getV z = s.getV z) ∧
        t.pc = s.pc + 2 ∧ onlyChanges [.regs, .pc] s t)

/-- O36. 0xAnnn writes nnn to I with bits 15 to 12 zero, moves pc by 2 and changes nothing else. [stated: R120] -/
def Obligations.LoadIndex : Prop :=
  ∀ (nnn : Addr) (s : State), decodeWord (0xA#4 ++ nnn) = .ok (.ldINnn nnn) ∧
    ∃ t, exec (.ldINnn nnn) s = .next t ∧ t.i.toNat = nnn.toNat ∧ t.pc = s.pc + 2 ∧ onlyChanges [.index, .pc] s t

/-- O37. 0xFx1E writes I + V[x] mod 65536 to I, moves pc by 2 and changes nothing else, VF included, whether or not the sum passes
0xFFF (decision D8, log 15). [derived: spec/44_index_memory.md (R121)] -/
def Obligations.AddToIndexWrapsAt65536 : Prop :=
  ∀ (x : RegIx) (s : State), decodeWord (0xF#4 ++ x ++ 0x1E#8) = .ok (.addIVx x) ∧
    ∃ t, exec (.addIVx x) s = .next t ∧ t.i.toNat = (s.i.toNat + (s.getV x).toNat) % 65536 ∧ t.pc = s.pc + 2 ∧
      onlyChanges [.index, .pc] s t

/-- O38. 0xFx29 writes 5 * V[x] to I for the whole byte, also above 0x0F (decision D9, log 15), moves pc by 2, reads no memory and
changes nothing else. [derived: spec/44_index_memory.md (R122)] -/
def Obligations.GlyphAddressIsFiveTimesDigit : Prop :=
  ∀ (x : RegIx) (s : State), decodeWord (0xF#4 ++ x ++ 0x29#8) = .ok (.ldFVx x) ∧
    ∃ t, exec (.ldFVx x) s = .next t ∧ t.i.toNat = 5 * (s.getV x).toNat ∧ t.pc = s.pc + 2 ∧ onlyChanges [.index, .pc] s t

/-- O39. EA(k) is (I + k) mod 4096 for every offset k, so every data address exists and none faults (decision D5, log 13).
[derived: spec/20_memory.md section 5 (R46)] -/
def Obligations.EffectiveAddressWraps : Prop :=
  ∀ (s : State) (k : Nat), (s.ea k).toNat = (s.i.toNat + k) % 4096

/-- O40. 0xFx33 stores hundreds, tens and ones of V[x] at EA(0), EA(1), EA(2), which wrap at 4096 (decision D5, log 13), moves pc
by 2 and changes nothing else: I and every other byte stay. [derived: spec/44_index_memory.md (R123), spec/20_memory.md
sections 5 and 6 (R46, R47)] -/
def Obligations.StoreDecimalDigits : Prop :=
  ∀ (x : RegIx) (s : State), decodeWord (0xF#4 ++ x ++ 0x33#8) = .ok (.ldBVx x) ∧
    ∃ t, exec (.ldBVx x) s = .next t ∧ (t.readByte (s.ea 0)).toNat = (s.getV x).toNat / 100 ∧
      (t.readByte (s.ea 1)).toNat = (s.getV x).toNat / 10 % 10 ∧ (t.readByte (s.ea 2)).toNat = (s.getV x).toNat % 10 ∧
      (∀ a, a ≠ s.ea 0 → a ≠ s.ea 1 → a ≠ s.ea 2 → t.readByte a = s.readByte a) ∧ t.pc = s.pc + 2 ∧
      onlyChanges [.memory, .pc] s t

/-- O41. 0xFx55 stores V[k] at EA(k) for k from 0 to x, wrapping at 4096, moves pc by 2 and changes nothing else: I stays
(decision D13, log 15), the registers stay, and every other byte stays. [derived: spec/44_index_memory.md (R124),
spec/20_memory.md sections 5 and 6 (R46, R47)] -/
def Obligations.StoreRegisterRange : Prop :=
  ∀ (x : RegIx) (s : State), decodeWord (0xF#4 ++ x ++ 0x55#8) = .ok (.ldMemVx x) ∧
    ∃ t, exec (.ldMemVx x) s = .next t ∧ (∀ z : RegIx, z.toNat ≤ x.toNat → t.readByte (s.ea z.toNat) = s.getV z) ∧
      (∀ a, (∀ k, k ≤ x.toNat → a ≠ s.ea k) → t.readByte a = s.readByte a) ∧ t.pc = s.pc + 2 ∧
      onlyChanges [.memory, .pc] s t

/-- O42. 0xFx65 loads V[k] from EA(k) for k from 0 to x, wrapping at 4096, moves pc by 2 and changes nothing else: registers above
x and I stay (decision D13, log 15). [derived: spec/44_index_memory.md (R125), spec/20_memory.md sections 5 and 6 (R46, R47)] -/
def Obligations.LoadRegisterRange : Prop :=
  ∀ (x : RegIx) (s : State), decodeWord (0xF#4 ++ x ++ 0x65#8) = .ok (.ldVxMem x) ∧
    ∃ t, exec (.ldVxMem x) s = .next t ∧ (∀ z : RegIx, z.toNat ≤ x.toNat → t.getV z = s.readByte (s.ea z.toNat)) ∧
      (∀ z : RegIx, x.toNat < z.toNat → t.getV z = s.getV z) ∧ t.pc = s.pc + 2 ∧ onlyChanges [.regs, .pc] s t

/-- O43. After a write of one byte, that address reads as the byte and every other address reads as before, whatever the address:
the font table and the reserved range are ordinary memory. [derived: spec/20_memory.md section 6 (R47), spec/20_memory.md
section 8 (R51)] -/
def Obligations.MemoryReadsLastWrite : Prop :=
  ∀ (s : State) (a : Addr) (w : Byte), (s.writeByte a w).readByte a = w ∧
    (∀ c, c ≠ a → (s.writeByte a w).readByte c = s.readByte c) ∧ onlyChanges [.memory] s (s.writeByte a w)

/-- O44. If LD [I], Vx stores at least two registers at two rising addresses, a fetch at the first of them reads V0 and V1 as the
word, with no step in between (decision D6, log 12). [derived: spec/20_memory.md section 8 (R54)] -/
def Obligations.StoredCodeIsFetched : Prop :=
  ∀ (x : RegIx) (s : State), 1 ≤ x.toNat → (s.ea 1).toNat = (s.ea 0).toNat + 1 →
    ∃ t, exec (.ldMemVx x) s = .next t ∧
      (t.setPc ((s.ea 0).setWidth 16)).fetchWord = some (s.getV 0 ++ s.getV 1)

/-- O45. If memory holds a font at 0x000 to 0x04F, any 80 bytes, then after LD F, Vx with V[x] at most 15 the bytes at EA(0) to
EA(4) are the five bytes of that digit's glyph; the conventional table of R55 is one such font (log 4). [derived:
spec/20_memory.md section 9 (R55), spec/44_index_memory.md (R122)] -/
def Obligations.GlyphLookupFindsGlyph : Prop :=
  ∀ (font : List Byte) (x : RegIx) (s : State), (hl : font.length = 80) →
    (∀ k (hk : k < font.length), s.readByte (BitVec.ofNat 12 k) = font[k]) → (hd : (s.getV x).toNat ≤ 15) →
    ∃ t, exec (.ldFVx x) s = .next t ∧
      ∀ r (hr : r < 5), t.readByte (t.ea r) = font[5 * (s.getV x).toNat + r]'(by omega)

/-- O46. 0xEx9E moves pc by 4 if the key numbered by the low nibble of V[x] (decision D12, log 16) is pressed in this step and by
2 otherwise, 0xExA1 the other way round; neither changes anything else. [derived: spec/46_keys_timers.md (R140, R141)] -/
def Obligations.KeySkips : Prop :=
  ∀ (x : RegIx) (s : State),
    decodeWord (0xE#4 ++ x ++ 0x9E#8) = .ok (.skp x) ∧ decodeWord (0xE#4 ++ x ++ 0xA1#8) = .ok (.sknp x) ∧
    (∃ t, exec (.skp x) s = .next t ∧ (s.key.getLsbD ((s.getV x).toNat % 16) = true → t.pc = s.pc + 4) ∧
      (s.key.getLsbD ((s.getV x).toNat % 16) = false → t.pc = s.pc + 2) ∧ onlyChanges [.pc] s t) ∧
    (∃ t, exec (.sknp x) s = .next t ∧ (s.key.getLsbD ((s.getV x).toNat % 16) = false → t.pc = s.pc + 4) ∧
      (s.key.getLsbD ((s.getV x).toNat % 16) = true → t.pc = s.pc + 2) ∧ onlyChanges [.pc] s t)

/-- O47. 0xFx07 writes DT to V[x], 0xFx15 writes V[x] to DT and 0xFx18 writes V[x] to ST, after which the sound line is 1 exactly
if V[x] is not 0; each moves pc by 2 and changes nothing else. [stated: R142, R144, R145] -/
def Obligations.TimerAccesses : Prop :=
  ∀ (x : RegIx) (s : State),
    (decodeWord (0xF#4 ++ x ++ 0x07#8) = .ok (.ldVxDt x) ∧
      ∃ t, exec (.ldVxDt x) s = .next t ∧ t.getV x = s.dt ∧ (∀ z, z ≠ x → t.getV z = s.getV z) ∧ t.pc = s.pc + 2 ∧
        onlyChanges [.regs, .pc] s t) ∧
    (decodeWord (0xF#4 ++ x ++ 0x15#8) = .ok (.ldDtVx x) ∧
      ∃ t, exec (.ldDtVx x) s = .next t ∧ t.dt = s.getV x ∧ t.pc = s.pc + 2 ∧ onlyChanges [.delay, .pc] s t) ∧
    (decodeWord (0xF#4 ++ x ++ 0x18#8) = .ok (.ldStVx x) ∧
      ∃ t, exec (.ldStVx x) s = .next t ∧ t.st = s.getV x ∧ (t.soundOut = true ↔ s.getV x ≠ 0) ∧ t.pc = s.pc + 2 ∧
        onlyChanges [.sound, .pc] s t)

/-- O48. 0xFx0A sets MODE to AwaitingKey, so that the output waiting is 1, and WAITX to x; pc stays at the instruction, the keys
are not looked at, and nothing else changes (decision D10, log 17). [derived: spec/46_keys_timers.md (R143)] -/
def Obligations.KeyReadStartsTheWait : Prop :=
  ∀ (x : RegIx) (s : State), decodeWord (0xF#4 ++ x ++ 0x0A#8) = .ok (.ldVxK x) ∧
    ∃ t, exec (.ldVxK x) s = .next t ∧ t.mode = .awaitingKey ∧ t.waitingOut = true ∧ t.waitX = x ∧ t.pc = s.pc ∧
      onlyChanges [.wait] s t

/-- O49. While waiting, a Cycle step (cycle, on a state whose inputs are sampled) with no key pressed changes nothing, and one
with keys pressed writes the number of a pressed key to V[WAITX], moves pc by 2 and lets the core run again, changing nothing
else; with no Tick due, step is this Cycle step on the freshly sampled inputs (decisions D10 and D11, logs 17 and 2).
[derived: spec/46_keys_timers.md (R146)] -/
def Obligations.WaitingStep : Prop :=
  ∀ s : State, s.mode = .awaitingKey →
    (s.halt = false → s.ticksDue = 0 → step s = cycle s.sample) ∧
    ∃ t, cycle s = .next t ∧ (s.key = 0 → t = s) ∧
      (s.key ≠ 0 →
        (∃ k : Nibble, s.key.getLsbD k.toNat = true ∧ (t.getV s.waitX).toNat = k.toNat) ∧
        (∀ z, z ≠ s.waitX → t.getV z = s.getV z) ∧ t.pc = s.pc + 2 ∧ t.mode = .running ∧ t.waitX = s.waitX ∧
        onlyChanges [.regs, .pc, .wait] s t)

/-- O50. For every pressed key some draw behind KEY_PICK makes the waiting step deliver that key: the model admits every pressed
key (decision D11, log 2). [derived: spec/46_keys_timers.md (R146), spec/00_scope.md section 4 (R6)] -/
def Obligations.EveryPressedKeyMayBePicked : Prop :=
  ∀ (s : State) (k : Nibble), s.key.getLsbD k.toNat = true →
    ∃ pick, ((awaitStep (s.latch s.key s.rnd pick)).getV s.waitX).toNat = k.toNat

/-- O51. In a wait every step is a Tick, which keeps the wait, or a Cycle step on sampled inputs; and a Cycle step that leads from
waiting to running found a pressed key. [derived: spec/46_keys_timers.md (R146), spec/60_exceptions.md section 5 (R172)] -/
def Obligations.WaitEndsOnlyByKey : Prop :=
  ∀ s t : State, s.mode = .awaitingKey →
    (step s = .next t → t = s.tickStep ∨ cycle s.sample = .next t) ∧ s.tickStep.mode = .awaitingKey ∧
    (cycle s = .next t → t.mode = .running → s.key ≠ 0)

/-- O52. exec never refuses and never stops with a fault of the model: every instruction has a next state on every state, a full
or empty call stack included, where that state is the fault entry. R12 names two outcomes, a next state or a fault; that the
fault is answered as a next state is the model's form of it (DESIGN CHOICE, log 6). [derived: spec/00_scope.md section 7
(R12)] -/
def Obligations.EveryInstructionCompletes : Prop :=
  ∀ (i : Instr) (s : State), ∃ t, exec i s = .next t

/-- O53. For every instruction and every state: only the parts that spec/10_state.md lists it as a writer of may differ
afterwards, and of the registers only its destinations, its range or the flag. So only CLS and DRW write the screen, only Fx33
and Fx55 memory, only CALL and RET the stack or the fault record, only LD Vx, K the wait. [derived: spec/10_state.md sections
2 to 12 (R20 to R32), spec/10_state.md section 8 (R28)] -/
def Obligations.InstructionsWriteOnlyTheirParts : Prop :=
  ∀ (i : Instr) (s t : State), exec i s = .next t →
    onlyChanges (partsWritten i) s t ∧ ∀ z, writesReg z i = false → t.getV z = s.getV z

/-- O54. After each of the six flag-writing instructions VF holds 0x00 or 0x01, whatever the operands and whichever register x is
(decision D7, log 14). [derived: spec/10_state.md section 2 (R21), spec/43_alu.md section 1 (R119)] -/
def Obligations.FlagsAreZeroOrOne : Prop :=
  ∀ (i : Instr) (s t : State), writesFlag i = true → exec i s = .next t → t.getV 15#4 = 0 ∨ t.getV 15#4 = 1

/-- O55. From every state whose memory list is canonical (addresses rising below 4096, no pair equal to what its address reads as
unlisted), a step leads to a state whose memory list is canonical. [derived: spec/20_memory.md section 1 (R40),
spec/20_memory.md section 6 (R47)] -/
def Obligations.MemoryStaysCanonical : Prop :=
  ∀ s t : State, s.memoryCanonical → step s = .next t → t.memoryCanonical

/-- O56. From every state in which pc is at most 0x10FE, every stack entry at most 0x1000 and a wait stands at a pc of at most
0xFFE, a step leads to such a state. [derived: spec/10_state.md section 4 (R23)] -/
def Obligations.AddressesStayBounded : Prop :=
  ∀ s t : State, s.addressesBounded → step s = .next t → t.addressesBounded

/-- O57. From every state whose fault record is truthful, a step leads to such a state: zero while not halted, and in a halted
state a kind that fits the state, the pc it still has, and the word that is fetched there (decisions D15 and D16, log 19).
UnknownFamily is never recorded. [derived: spec/60_exceptions.md section 1 (R150 to R155, R158), spec/10_state.md section 11
(R31)] -/
def Obligations.FaultRecordStaysTruthful : Prop :=
  ∀ s t : State, s.recordTruthful → step s = .next t → t.recordTruthful

/-- O58. At reset memory is canonical, pc and stack entries are within their bounds, and the fault record is zero (decision D14,
log 20). [derived: spec/10_state.md section 13 (R36)] -/
def Obligations.ResetMeetsTheInvariants : Prop :=
  State.reset.memoryCanonical ∧ State.reset.addressesBounded ∧ State.reset.recordTruthful

/-- O59. After reset every register, I, both timers, the depth and every stack entry are zero, pc is 0x200, memory is the font
table at 0x000 to 0x04F and zero above, every pixel is off, the core runs, WAITX is 0 and the fault state is clear. The values
of I, the pixels, MODE, WAITX and the fault record are decision D14, which R36 marks row by row (log 20). [derived:
spec/70_reset_and_hazards.md section 1 (R180), spec/10_state.md section 13 (R36)] -/
def Obligations.ResetValues : Prop :=
  ∀ s : State, s.hostReset = State.reset ∧ (∀ z, State.reset.getV z = 0) ∧ State.reset.i = 0 ∧ State.reset.dt = 0 ∧
    State.reset.st = 0 ∧ State.reset.sp.val = 0 ∧ (∀ k, State.reset.stkAt k = 0) ∧ State.reset.pc = 0x200#16 ∧
    (∀ a : Addr, a.toNat < 80 → State.reset.readByte a = Config.fontByte a.toNat) ∧
    (∀ a : Addr, 80 ≤ a.toNat → State.reset.readByte a = 0) ∧ (∀ p, State.reset.pixel p = false) ∧
    State.reset.mode = .running ∧ State.reset.waitX = 0 ∧ State.reset.halt = false ∧ State.reset.faultKind.code = 0 ∧
    State.reset.faultPc = 0 ∧ State.reset.faultOp = 0

/-- O60. For a ROM of at most 3584 bytes, the launch state reads ROM byte j at 0x200 + j, the font at 0x000 to 0x04F and zero
elsewhere, with all other state at reset values; a longer ROM, which R184 keeps from the core, has no launch state, which is
the model's form of it (DESIGN CHOICE, log 5). [derived: spec/70_reset_and_hazards.md section 2 (R182, R183, R184)] -/
def Obligations.LaunchLoadsTheRom : Prop :=
  ∀ rom : List Byte,
    (rom.length ≤ 3584 → ∃ s, launch rom = some s ∧ onlyChanges [.memory] State.reset s ∧
      (∀ j (hj : j < rom.length), s.readByte (BitVec.ofNat 12 (0x200 + j)) = rom[j]) ∧
      (∀ a : Addr, a.toNat < 80 → s.readByte a = Config.fontByte a.toNat) ∧
      (∀ a : Addr, 80 ≤ a.toNat → a.toNat < 0x200 ∨ 0x200 + rom.length ≤ a.toNat → s.readByte a = 0)) ∧
    (3584 < rom.length → launch rom = none)
end

