-- ==== Sys2Proof/Laws/State.lean ====
section
/-! SUPPORT. What each update of State leaves of each field, and of each observation made through a field: true by rfl, so that no
later proof unfolds a record update. -/

namespace Sys2Proof.Machine

variable (s : State)

/-! ### `State.setV` -/

@[simp] theorem setV_i (x : RegIx) (b : Byte) : (s.setV x b).i = s.i := rfl
@[simp] theorem setV_pc (x : RegIx) (b : Byte) : (s.setV x b).pc = s.pc := rfl
@[simp] theorem setV_stk (x : RegIx) (b : Byte) : (s.setV x b).stk = s.stk := rfl
@[simp] theorem setV_sp (x : RegIx) (b : Byte) : (s.setV x b).sp = s.sp := rfl
@[simp] theorem setV_dt (x : RegIx) (b : Byte) : (s.setV x b).dt = s.dt := rfl
@[simp] theorem setV_st (x : RegIx) (b : Byte) : (s.setV x b).st = s.st := rfl
@[simp] theorem setV_fb (x : RegIx) (b : Byte) : (s.setV x b).fb = s.fb := rfl
@[simp] theorem setV_mem (x : RegIx) (b : Byte) : (s.setV x b).mem = s.mem := rfl
@[simp] theorem setV_mode (x : RegIx) (b : Byte) : (s.setV x b).mode = s.mode := rfl
@[simp] theorem setV_waitX (x : RegIx) (b : Byte) : (s.setV x b).waitX = s.waitX := rfl
@[simp] theorem setV_halt (x : RegIx) (b : Byte) : (s.setV x b).halt = s.halt := rfl
@[simp] theorem setV_faultKind (x : RegIx) (b : Byte) : (s.setV x b).faultKind = s.faultKind := rfl
@[simp] theorem setV_faultPc (x : RegIx) (b : Byte) : (s.setV x b).faultPc = s.faultPc := rfl
@[simp] theorem setV_faultOp (x : RegIx) (b : Byte) : (s.setV x b).faultOp = s.faultOp := rfl
@[simp] theorem setV_key (x : RegIx) (b : Byte) : (s.setV x b).key = s.key := rfl
@[simp] theorem setV_rnd (x : RegIx) (b : Byte) : (s.setV x b).rnd = s.rnd := rfl
@[simp] theorem setV_pick (x : RegIx) (b : Byte) : (s.setV x b).pick = s.pick := rfl
@[simp] theorem setV_draws (x : RegIx) (b : Byte) : (s.setV x b).draws = s.draws := rfl
@[simp] theorem setV_ticksDue (x : RegIx) (b : Byte) : (s.setV x b).ticksDue = s.ticksDue := rfl
@[simp] theorem setV_stkAt (x : RegIx) (b : Byte) (k : Fin 16) : (s.setV x b).stkAt k = s.stkAt k := rfl
@[simp] theorem setV_pixel (x : RegIx) (b : Byte) (p : Pixel) : (s.setV x b).pixel p = s.pixel p := rfl
@[simp] theorem setV_readByte (x : RegIx) (b : Byte) (a : Addr) : (s.setV x b).readByte a = s.readByte a := rfl
@[simp] theorem setV_ea (x : RegIx) (b : Byte) (k : Nat) : (s.setV x b).ea k = s.ea k := rfl
@[simp] theorem setV_keyPressed (x : RegIx) (b : Byte) (k : Nibble) : (s.setV x b).keyPressed k = s.keyPressed k := rfl

/-! ### `State.setI` -/

@[simp] theorem setI_v (w : Word) : (s.setI w).v = s.v := rfl
@[simp] theorem setI_i (w : Word) : (s.setI w).i = w := rfl
@[simp] theorem setI_pc (w : Word) : (s.setI w).pc = s.pc := rfl
@[simp] theorem setI_stk (w : Word) : (s.setI w).stk = s.stk := rfl
@[simp] theorem setI_sp (w : Word) : (s.setI w).sp = s.sp := rfl
@[simp] theorem setI_dt (w : Word) : (s.setI w).dt = s.dt := rfl
@[simp] theorem setI_st (w : Word) : (s.setI w).st = s.st := rfl
@[simp] theorem setI_fb (w : Word) : (s.setI w).fb = s.fb := rfl
@[simp] theorem setI_mem (w : Word) : (s.setI w).mem = s.mem := rfl
@[simp] theorem setI_mode (w : Word) : (s.setI w).mode = s.mode := rfl
@[simp] theorem setI_waitX (w : Word) : (s.setI w).waitX = s.waitX := rfl
@[simp] theorem setI_halt (w : Word) : (s.setI w).halt = s.halt := rfl
@[simp] theorem setI_faultKind (w : Word) : (s.setI w).faultKind = s.faultKind := rfl
@[simp] theorem setI_faultPc (w : Word) : (s.setI w).faultPc = s.faultPc := rfl
@[simp] theorem setI_faultOp (w : Word) : (s.setI w).faultOp = s.faultOp := rfl
@[simp] theorem setI_key (w : Word) : (s.setI w).key = s.key := rfl
@[simp] theorem setI_rnd (w : Word) : (s.setI w).rnd = s.rnd := rfl
@[simp] theorem setI_pick (w : Word) : (s.setI w).pick = s.pick := rfl
@[simp] theorem setI_draws (w : Word) : (s.setI w).draws = s.draws := rfl
@[simp] theorem setI_ticksDue (w : Word) : (s.setI w).ticksDue = s.ticksDue := rfl
@[simp] theorem setI_getV (w : Word) (y : RegIx) : (s.setI w).getV y = s.getV y := rfl
@[simp] theorem setI_stkAt (w : Word) (k : Fin 16) : (s.setI w).stkAt k = s.stkAt k := rfl
@[simp] theorem setI_pixel (w : Word) (p : Pixel) : (s.setI w).pixel p = s.pixel p := rfl
@[simp] theorem setI_readByte (w : Word) (a : Addr) : (s.setI w).readByte a = s.readByte a := rfl
@[simp] theorem setI_keyPressed (w : Word) (k : Nibble) : (s.setI w).keyPressed k = s.keyPressed k := rfl

/-! ### `State.setPc` -/

@[simp] theorem setPc_v (w : Word) : (s.setPc w).v = s.v := rfl
@[simp] theorem setPc_i (w : Word) : (s.setPc w).i = s.i := rfl
@[simp] theorem setPc_pc (w : Word) : (s.setPc w).pc = w := rfl
@[simp] theorem setPc_stk (w : Word) : (s.setPc w).stk = s.stk := rfl
@[simp] theorem setPc_sp (w : Word) : (s.setPc w).sp = s.sp := rfl
@[simp] theorem setPc_dt (w : Word) : (s.setPc w).dt = s.dt := rfl
@[simp] theorem setPc_st (w : Word) : (s.setPc w).st = s.st := rfl
@[simp] theorem setPc_fb (w : Word) : (s.setPc w).fb = s.fb := rfl
@[simp] theorem setPc_mem (w : Word) : (s.setPc w).mem = s.mem := rfl
@[simp] theorem setPc_mode (w : Word) : (s.setPc w).mode = s.mode := rfl
@[simp] theorem setPc_waitX (w : Word) : (s.setPc w).waitX = s.waitX := rfl
@[simp] theorem setPc_halt (w : Word) : (s.setPc w).halt = s.halt := rfl
@[simp] theorem setPc_faultKind (w : Word) : (s.setPc w).faultKind = s.faultKind := rfl
@[simp] theorem setPc_faultPc (w : Word) : (s.setPc w).faultPc = s.faultPc := rfl
@[simp] theorem setPc_faultOp (w : Word) : (s.setPc w).faultOp = s.faultOp := rfl
@[simp] theorem setPc_key (w : Word) : (s.setPc w).key = s.key := rfl
@[simp] theorem setPc_rnd (w : Word) : (s.setPc w).rnd = s.rnd := rfl
@[simp] theorem setPc_pick (w : Word) : (s.setPc w).pick = s.pick := rfl
@[simp] theorem setPc_draws (w : Word) : (s.setPc w).draws = s.draws := rfl
@[simp] theorem setPc_ticksDue (w : Word) : (s.setPc w).ticksDue = s.ticksDue := rfl
@[simp] theorem setPc_getV (w : Word) (y : RegIx) : (s.setPc w).getV y = s.getV y := rfl
@[simp] theorem setPc_stkAt (w : Word) (k : Fin 16) : (s.setPc w).stkAt k = s.stkAt k := rfl
@[simp] theorem setPc_pixel (w : Word) (p : Pixel) : (s.setPc w).pixel p = s.pixel p := rfl
@[simp] theorem setPc_readByte (w : Word) (a : Addr) : (s.setPc w).readByte a = s.readByte a := rfl
@[simp] theorem setPc_ea (w : Word) (k : Nat) : (s.setPc w).ea k = s.ea k := rfl
@[simp] theorem setPc_keyPressed (w : Word) (k : Nibble) : (s.setPc w).keyPressed k = s.keyPressed k := rfl

/-! ### `State.setDt` -/

@[simp] theorem setDt_v (b : Byte) : (s.setDt b).v = s.v := rfl
@[simp] theorem setDt_i (b : Byte) : (s.setDt b).i = s.i := rfl
@[simp] theorem setDt_pc (b : Byte) : (s.setDt b).pc = s.pc := rfl
@[simp] theorem setDt_stk (b : Byte) : (s.setDt b).stk = s.stk := rfl
@[simp] theorem setDt_sp (b : Byte) : (s.setDt b).sp = s.sp := rfl
@[simp] theorem setDt_dt (b : Byte) : (s.setDt b).dt = b := rfl
@[simp] theorem setDt_st (b : Byte) : (s.setDt b).st = s.st := rfl
@[simp] theorem setDt_fb (b : Byte) : (s.setDt b).fb = s.fb := rfl
@[simp] theorem setDt_mem (b : Byte) : (s.setDt b).mem = s.mem := rfl
@[simp] theorem setDt_mode (b : Byte) : (s.setDt b).mode = s.mode := rfl
@[simp] theorem setDt_waitX (b : Byte) : (s.setDt b).waitX = s.waitX := rfl
@[simp] theorem setDt_halt (b : Byte) : (s.setDt b).halt = s.halt := rfl
@[simp] theorem setDt_faultKind (b : Byte) : (s.setDt b).faultKind = s.faultKind := rfl
@[simp] theorem setDt_faultPc (b : Byte) : (s.setDt b).faultPc = s.faultPc := rfl
@[simp] theorem setDt_faultOp (b : Byte) : (s.setDt b).faultOp = s.faultOp := rfl
@[simp] theorem setDt_key (b : Byte) : (s.setDt b).key = s.key := rfl
@[simp] theorem setDt_rnd (b : Byte) : (s.setDt b).rnd = s.rnd := rfl
@[simp] theorem setDt_pick (b : Byte) : (s.setDt b).pick = s.pick := rfl
@[simp] theorem setDt_draws (b : Byte) : (s.setDt b).draws = s.draws := rfl
@[simp] theorem setDt_ticksDue (b : Byte) : (s.setDt b).ticksDue = s.ticksDue := rfl
@[simp] theorem setDt_getV (b : Byte) (y : RegIx) : (s.setDt b).getV y = s.getV y := rfl
@[simp] theorem setDt_stkAt (b : Byte) (k : Fin 16) : (s.setDt b).stkAt k = s.stkAt k := rfl
@[simp] theorem setDt_pixel (b : Byte) (p : Pixel) : (s.setDt b).pixel p = s.pixel p := rfl
@[simp] theorem setDt_readByte (b : Byte) (a : Addr) : (s.setDt b).readByte a = s.readByte a := rfl
@[simp] theorem setDt_ea (b : Byte) (k : Nat) : (s.setDt b).ea k = s.ea k := rfl
@[simp] theorem setDt_keyPressed (b : Byte) (k : Nibble) : (s.setDt b).keyPressed k = s.keyPressed k := rfl

/-! ### `State.setSt` -/

@[simp] theorem setSt_v (b : Byte) : (s.setSt b).v = s.v := rfl
@[simp] theorem setSt_i (b : Byte) : (s.setSt b).i = s.i := rfl
@[simp] theorem setSt_pc (b : Byte) : (s.setSt b).pc = s.pc := rfl
@[simp] theorem setSt_stk (b : Byte) : (s.setSt b).stk = s.stk := rfl
@[simp] theorem setSt_sp (b : Byte) : (s.setSt b).sp = s.sp := rfl
@[simp] theorem setSt_dt (b : Byte) : (s.setSt b).dt = s.dt := rfl
@[simp] theorem setSt_st (b : Byte) : (s.setSt b).st = b := rfl
@[simp] theorem setSt_fb (b : Byte) : (s.setSt b).fb = s.fb := rfl
@[simp] theorem setSt_mem (b : Byte) : (s.setSt b).mem = s.mem := rfl
@[simp] theorem setSt_mode (b : Byte) : (s.setSt b).mode = s.mode := rfl
@[simp] theorem setSt_waitX (b : Byte) : (s.setSt b).waitX = s.waitX := rfl
@[simp] theorem setSt_halt (b : Byte) : (s.setSt b).halt = s.halt := rfl
@[simp] theorem setSt_faultKind (b : Byte) : (s.setSt b).faultKind = s.faultKind := rfl
@[simp] theorem setSt_faultPc (b : Byte) : (s.setSt b).faultPc = s.faultPc := rfl
@[simp] theorem setSt_faultOp (b : Byte) : (s.setSt b).faultOp = s.faultOp := rfl
@[simp] theorem setSt_key (b : Byte) : (s.setSt b).key = s.key := rfl
@[simp] theorem setSt_rnd (b : Byte) : (s.setSt b).rnd = s.rnd := rfl
@[simp] theorem setSt_pick (b : Byte) : (s.setSt b).pick = s.pick := rfl
@[simp] theorem setSt_draws (b : Byte) : (s.setSt b).draws = s.draws := rfl
@[simp] theorem setSt_ticksDue (b : Byte) : (s.setSt b).ticksDue = s.ticksDue := rfl
@[simp] theorem setSt_getV (b : Byte) (y : RegIx) : (s.setSt b).getV y = s.getV y := rfl
@[simp] theorem setSt_stkAt (b : Byte) (k : Fin 16) : (s.setSt b).stkAt k = s.stkAt k := rfl
@[simp] theorem setSt_pixel (b : Byte) (p : Pixel) : (s.setSt b).pixel p = s.pixel p := rfl
@[simp] theorem setSt_readByte (b : Byte) (a : Addr) : (s.setSt b).readByte a = s.readByte a := rfl
@[simp] theorem setSt_ea (b : Byte) (k : Nat) : (s.setSt b).ea k = s.ea k := rfl
@[simp] theorem setSt_keyPressed (b : Byte) (k : Nibble) : (s.setSt b).keyPressed k = s.keyPressed k := rfl

/-! ### `State.setFb` -/

@[simp] theorem setFb_v (f : Framebuffer) : (s.setFb f).v = s.v := rfl
@[simp] theorem setFb_i (f : Framebuffer) : (s.setFb f).i = s.i := rfl
@[simp] theorem setFb_pc (f : Framebuffer) : (s.setFb f).pc = s.pc := rfl
@[simp] theorem setFb_stk (f : Framebuffer) : (s.setFb f).stk = s.stk := rfl
@[simp] theorem setFb_sp (f : Framebuffer) : (s.setFb f).sp = s.sp := rfl
@[simp] theorem setFb_dt (f : Framebuffer) : (s.setFb f).dt = s.dt := rfl
@[simp] theorem setFb_st (f : Framebuffer) : (s.setFb f).st = s.st := rfl
@[simp] theorem setFb_fb (f : Framebuffer) : (s.setFb f).fb = f := rfl
@[simp] theorem setFb_mem (f : Framebuffer) : (s.setFb f).mem = s.mem := rfl
@[simp] theorem setFb_mode (f : Framebuffer) : (s.setFb f).mode = s.mode := rfl
@[simp] theorem setFb_waitX (f : Framebuffer) : (s.setFb f).waitX = s.waitX := rfl
@[simp] theorem setFb_halt (f : Framebuffer) : (s.setFb f).halt = s.halt := rfl
@[simp] theorem setFb_faultKind (f : Framebuffer) : (s.setFb f).faultKind = s.faultKind := rfl
@[simp] theorem setFb_faultPc (f : Framebuffer) : (s.setFb f).faultPc = s.faultPc := rfl
@[simp] theorem setFb_faultOp (f : Framebuffer) : (s.setFb f).faultOp = s.faultOp := rfl
@[simp] theorem setFb_key (f : Framebuffer) : (s.setFb f).key = s.key := rfl
@[simp] theorem setFb_rnd (f : Framebuffer) : (s.setFb f).rnd = s.rnd := rfl
@[simp] theorem setFb_pick (f : Framebuffer) : (s.setFb f).pick = s.pick := rfl
@[simp] theorem setFb_draws (f : Framebuffer) : (s.setFb f).draws = s.draws := rfl
@[simp] theorem setFb_ticksDue (f : Framebuffer) : (s.setFb f).ticksDue = s.ticksDue := rfl
@[simp] theorem setFb_getV (f : Framebuffer) (y : RegIx) : (s.setFb f).getV y = s.getV y := rfl
@[simp] theorem setFb_stkAt (f : Framebuffer) (k : Fin 16) : (s.setFb f).stkAt k = s.stkAt k := rfl
@[simp] theorem setFb_readByte (f : Framebuffer) (a : Addr) : (s.setFb f).readByte a = s.readByte a := rfl
@[simp] theorem setFb_ea (f : Framebuffer) (k : Nat) : (s.setFb f).ea k = s.ea k := rfl
@[simp] theorem setFb_keyPressed (f : Framebuffer) (k : Nibble) : (s.setFb f).keyPressed k = s.keyPressed k := rfl

/-! ### `State.writeByte` -/

@[simp] theorem writeByte_v (c : Addr) (b : Byte) : (s.writeByte c b).v = s.v := rfl
@[simp] theorem writeByte_i (c : Addr) (b : Byte) : (s.writeByte c b).i = s.i := rfl
@[simp] theorem writeByte_pc (c : Addr) (b : Byte) : (s.writeByte c b).pc = s.pc := rfl
@[simp] theorem writeByte_stk (c : Addr) (b : Byte) : (s.writeByte c b).stk = s.stk := rfl
@[simp] theorem writeByte_sp (c : Addr) (b : Byte) : (s.writeByte c b).sp = s.sp := rfl
@[simp] theorem writeByte_dt (c : Addr) (b : Byte) : (s.writeByte c b).dt = s.dt := rfl
@[simp] theorem writeByte_st (c : Addr) (b : Byte) : (s.writeByte c b).st = s.st := rfl
@[simp] theorem writeByte_fb (c : Addr) (b : Byte) : (s.writeByte c b).fb = s.fb := rfl
@[simp] theorem writeByte_mode (c : Addr) (b : Byte) : (s.writeByte c b).mode = s.mode := rfl
@[simp] theorem writeByte_waitX (c : Addr) (b : Byte) : (s.writeByte c b).waitX = s.waitX := rfl
@[simp] theorem writeByte_halt (c : Addr) (b : Byte) : (s.writeByte c b).halt = s.halt := rfl
@[simp] theorem writeByte_faultKind (c : Addr) (b : Byte) : (s.writeByte c b).faultKind = s.faultKind := rfl
@[simp] theorem writeByte_faultPc (c : Addr) (b : Byte) : (s.writeByte c b).faultPc = s.faultPc := rfl
@[simp] theorem writeByte_faultOp (c : Addr) (b : Byte) : (s.writeByte c b).faultOp = s.faultOp := rfl
@[simp] theorem writeByte_key (c : Addr) (b : Byte) : (s.writeByte c b).key = s.key := rfl
@[simp] theorem writeByte_rnd (c : Addr) (b : Byte) : (s.writeByte c b).rnd = s.rnd := rfl
@[simp] theorem writeByte_pick (c : Addr) (b : Byte) : (s.writeByte c b).pick = s.pick := rfl
@[simp] theorem writeByte_draws (c : Addr) (b : Byte) : (s.writeByte c b).draws = s.draws := rfl
@[simp] theorem writeByte_ticksDue (c : Addr) (b : Byte) : (s.writeByte c b).ticksDue = s.ticksDue := rfl
@[simp] theorem writeByte_getV (c : Addr) (b : Byte) (y : RegIx) : (s.writeByte c b).getV y = s.getV y := rfl
@[simp] theorem writeByte_stkAt (c : Addr) (b : Byte) (k : Fin 16) : (s.writeByte c b).stkAt k = s.stkAt k := rfl
@[simp] theorem writeByte_pixel (c : Addr) (b : Byte) (p : Pixel) : (s.writeByte c b).pixel p = s.pixel p := rfl
@[simp] theorem writeByte_ea (c : Addr) (b : Byte) (k : Nat) : (s.writeByte c b).ea k = s.ea k := rfl
@[simp] theorem writeByte_keyPressed (c : Addr) (b : Byte) (k : Nibble) : (s.writeByte c b).keyPressed k = s.keyPressed k := rfl

/-! ### `State.raise` -/

@[simp] theorem raise_v (q : FaultKind) (w u : Word) : (s.raise q w u).v = s.v := rfl
@[simp] theorem raise_i (q : FaultKind) (w u : Word) : (s.raise q w u).i = s.i := rfl
@[simp] theorem raise_pc (q : FaultKind) (w u : Word) : (s.raise q w u).pc = s.pc := rfl
@[simp] theorem raise_stk (q : FaultKind) (w u : Word) : (s.raise q w u).stk = s.stk := rfl
@[simp] theorem raise_sp (q : FaultKind) (w u : Word) : (s.raise q w u).sp = s.sp := rfl
@[simp] theorem raise_dt (q : FaultKind) (w u : Word) : (s.raise q w u).dt = s.dt := rfl
@[simp] theorem raise_st (q : FaultKind) (w u : Word) : (s.raise q w u).st = s.st := rfl
@[simp] theorem raise_fb (q : FaultKind) (w u : Word) : (s.raise q w u).fb = s.fb := rfl
@[simp] theorem raise_mem (q : FaultKind) (w u : Word) : (s.raise q w u).mem = s.mem := rfl
@[simp] theorem raise_mode (q : FaultKind) (w u : Word) : (s.raise q w u).mode = s.mode := rfl
@[simp] theorem raise_waitX (q : FaultKind) (w u : Word) : (s.raise q w u).waitX = s.waitX := rfl
@[simp] theorem raise_halt (q : FaultKind) (w u : Word) : (s.raise q w u).halt = true := rfl
@[simp] theorem raise_faultKind (q : FaultKind) (w u : Word) : (s.raise q w u).faultKind = q := rfl
@[simp] theorem raise_faultPc (q : FaultKind) (w u : Word) : (s.raise q w u).faultPc = w := rfl
@[simp] theorem raise_faultOp (q : FaultKind) (w u : Word) : (s.raise q w u).faultOp = u := rfl
@[simp] theorem raise_key (q : FaultKind) (w u : Word) : (s.raise q w u).key = s.key := rfl
@[simp] theorem raise_rnd (q : FaultKind) (w u : Word) : (s.raise q w u).rnd = s.rnd := rfl
@[simp] theorem raise_pick (q : FaultKind) (w u : Word) : (s.raise q w u).pick = s.pick := rfl
@[simp] theorem raise_draws (q : FaultKind) (w u : Word) : (s.raise q w u).draws = s.draws := rfl
@[simp] theorem raise_ticksDue (q : FaultKind) (w u : Word) : (s.raise q w u).ticksDue = s.ticksDue := rfl
@[simp] theorem raise_getV (q : FaultKind) (w u : Word) (y : RegIx) : (s.raise q w u).getV y = s.getV y := rfl
@[simp] theorem raise_stkAt (q : FaultKind) (w u : Word) (k : Fin 16) : (s.raise q w u).stkAt k = s.stkAt k := rfl
@[simp] theorem raise_pixel (q : FaultKind) (w u : Word) (p : Pixel) : (s.raise q w u).pixel p = s.pixel p := rfl
@[simp] theorem raise_readByte (q : FaultKind) (w u : Word) (a : Addr) : (s.raise q w u).readByte a = s.readByte a := rfl
@[simp] theorem raise_ea (q : FaultKind) (w u : Word) (k : Nat) : (s.raise q w u).ea k = s.ea k := rfl
@[simp] theorem raise_keyPressed (q : FaultKind) (w u : Word) (k : Nibble) : (s.raise q w u).keyPressed k = s.keyPressed k := rfl

/-! ### `State.latch` -/

@[simp] theorem latch_v (w : Word) (b : Byte) (n : Nibble) : (s.latch w b n).v = s.v := rfl
@[simp] theorem latch_i (w : Word) (b : Byte) (n : Nibble) : (s.latch w b n).i = s.i := rfl
@[simp] theorem latch_pc (w : Word) (b : Byte) (n : Nibble) : (s.latch w b n).pc = s.pc := rfl
@[simp] theorem latch_stk (w : Word) (b : Byte) (n : Nibble) : (s.latch w b n).stk = s.stk := rfl
@[simp] theorem latch_sp (w : Word) (b : Byte) (n : Nibble) : (s.latch w b n).sp = s.sp := rfl
@[simp] theorem latch_dt (w : Word) (b : Byte) (n : Nibble) : (s.latch w b n).dt = s.dt := rfl
@[simp] theorem latch_st (w : Word) (b : Byte) (n : Nibble) : (s.latch w b n).st = s.st := rfl
@[simp] theorem latch_fb (w : Word) (b : Byte) (n : Nibble) : (s.latch w b n).fb = s.fb := rfl
@[simp] theorem latch_mem (w : Word) (b : Byte) (n : Nibble) : (s.latch w b n).mem = s.mem := rfl
@[simp] theorem latch_mode (w : Word) (b : Byte) (n : Nibble) : (s.latch w b n).mode = s.mode := rfl
@[simp] theorem latch_waitX (w : Word) (b : Byte) (n : Nibble) : (s.latch w b n).waitX = s.waitX := rfl
@[simp] theorem latch_halt (w : Word) (b : Byte) (n : Nibble) : (s.latch w b n).halt = s.halt := rfl
@[simp] theorem latch_faultKind (w : Word) (b : Byte) (n : Nibble) : (s.latch w b n).faultKind = s.faultKind := rfl
@[simp] theorem latch_faultPc (w : Word) (b : Byte) (n : Nibble) : (s.latch w b n).faultPc = s.faultPc := rfl
@[simp] theorem latch_faultOp (w : Word) (b : Byte) (n : Nibble) : (s.latch w b n).faultOp = s.faultOp := rfl
@[simp] theorem latch_key (w : Word) (b : Byte) (n : Nibble) : (s.latch w b n).key = w := rfl
@[simp] theorem latch_rnd (w : Word) (b : Byte) (n : Nibble) : (s.latch w b n).rnd = b := rfl
@[simp] theorem latch_pick (w : Word) (b : Byte) (n : Nibble) : (s.latch w b n).pick = n := rfl
@[simp] theorem latch_draws (w : Word) (b : Byte) (n : Nibble) : (s.latch w b n).draws = s.draws := rfl
@[simp] theorem latch_ticksDue (w : Word) (b : Byte) (n : Nibble) : (s.latch w b n).ticksDue = s.ticksDue := rfl
@[simp] theorem latch_getV (w : Word) (b : Byte) (n : Nibble) (y : RegIx) : (s.latch w b n).getV y = s.getV y := rfl
@[simp] theorem latch_stkAt (w : Word) (b : Byte) (n : Nibble) (k : Fin 16) : (s.latch w b n).stkAt k = s.stkAt k := rfl
@[simp] theorem latch_pixel (w : Word) (b : Byte) (n : Nibble) (p : Pixel) : (s.latch w b n).pixel p = s.pixel p := rfl
@[simp] theorem latch_readByte (w : Word) (b : Byte) (n : Nibble) (a : Addr) : (s.latch w b n).readByte a = s.readByte a := rfl
@[simp] theorem latch_ea (w : Word) (b : Byte) (n : Nibble) (k : Nat) : (s.latch w b n).ea k = s.ea k := rfl

/-! ### `State.sample` -/

@[simp] theorem sample_v : (s.sample).v = s.v := rfl
@[simp] theorem sample_i : (s.sample).i = s.i := rfl
@[simp] theorem sample_pc : (s.sample).pc = s.pc := rfl
@[simp] theorem sample_stk : (s.sample).stk = s.stk := rfl
@[simp] theorem sample_sp : (s.sample).sp = s.sp := rfl
@[simp] theorem sample_dt : (s.sample).dt = s.dt := rfl
@[simp] theorem sample_st : (s.sample).st = s.st := rfl
@[simp] theorem sample_fb : (s.sample).fb = s.fb := rfl
@[simp] theorem sample_mem : (s.sample).mem = s.mem := rfl
@[simp] theorem sample_mode : (s.sample).mode = s.mode := rfl
@[simp] theorem sample_waitX : (s.sample).waitX = s.waitX := rfl
@[simp] theorem sample_halt : (s.sample).halt = s.halt := rfl
@[simp] theorem sample_faultKind : (s.sample).faultKind = s.faultKind := rfl
@[simp] theorem sample_faultPc : (s.sample).faultPc = s.faultPc := rfl
@[simp] theorem sample_faultOp : (s.sample).faultOp = s.faultOp := rfl
@[simp] theorem sample_key : (s.sample).key = Config.keyInput s.draws := rfl
@[simp] theorem sample_rnd : (s.sample).rnd = Config.rndInput s.draws := rfl
@[simp] theorem sample_pick : (s.sample).pick = Config.pickInput s.draws := rfl
@[simp] theorem sample_draws : (s.sample).draws = s.draws + 1 := rfl
@[simp] theorem sample_ticksDue : (s.sample).ticksDue = Config.ticksAfter s.draws := rfl
@[simp] theorem sample_getV (y : RegIx) : (s.sample).getV y = s.getV y := rfl
@[simp] theorem sample_stkAt (k : Fin 16) : (s.sample).stkAt k = s.stkAt k := rfl
@[simp] theorem sample_pixel (p : Pixel) : (s.sample).pixel p = s.pixel p := rfl
@[simp] theorem sample_readByte (a : Addr) : (s.sample).readByte a = s.readByte a := rfl
@[simp] theorem sample_ea (k : Nat) : (s.sample).ea k = s.ea k := rfl

/-! ### Updates built from the ones above -/

@[simp] theorem advance_eq : s.advance = s.setPc (s.pc + 2) := rfl
@[simp] theorem skipIf_eq (c : Bool) : s.skipIf c = s.setPc (if c then s.pc + 4 else s.pc + 2) := rfl
@[simp] theorem setResultFlag_eq (x : RegIx) (r : Byte) (c : Bool) :
    s.setResultFlag x r c = (s.setV x r).setV vf (flagByte c) := rfl
@[simp] theorem hostReset_eq : s.hostReset = State.reset := rfl
@[simp] theorem setFb_pixel (f : Framebuffer) (p : Pixel) : (s.setFb f).pixel p = fbPixel f p := rfl
@[simp] theorem sample_fetchWord : s.sample.fetchWord = s.fetchWord := rfl
@[simp] theorem latch_fetchWord (w : Word) (b : Byte) (n : Nibble) : (s.latch w b n).fetchWord = s.fetchWord := rfl
@[simp] theorem raise_fetchWord (q : FaultKind) (w u : Word) : (s.raise q w u).fetchWord = s.fetchWord := rfl

end Sys2Proof.Machine
end

