-- ==== Sys2Proof/Laws/Blitter.lean ====
section
/-! SUPPORT. What a blit does, pixel by pixel (spec/45_display.md R132), from the fold that defines it. -/

namespace Sys2Proof.Machine

theorem fbPixel_toggle (fb : Framebuffer) (p q : Pixel) :
    fbPixel (fbToggle fb p) q = (fbPixel fb q ^^ decide (q = p)) := by
  obtain ⟨px, py⟩ := p
  obtain ⟨qx, qy⟩ := q
  simp only [fbPixel, fbToggle, Vector.getElem_set, Prod.mk.injEq]
  by_cases hy : py = qy
  · subst hy
    by_cases hx : qx = px
    · subst hx; simp
    · have : qx.val ≠ px.val := fun h => hx (Fin.ext h)
      have h1 : (!decide (qx < px) && decide (qx.val - px.val = 0)) = false := by
        by_cases hlt : qx < px
        · simp [hlt]
        · have hle : px.val ≤ qx.val := Fin.le_def.1 (not_lt.1 hlt)
          simp only [hlt, decide_false, Bool.not_false, Bool.true_and, decide_eq_false_iff_not]
          omega
      simp [h1, hx]
  · have : py.val ≠ qy.val := fun h => hy (Fin.ext h)
    have h2 : ¬ (qy = py) := fun h => hy h.symm
    simp [this, h2]

theorem fbPixel_clear (p : Pixel) : fbPixel fbClear p = false := by simp [fbPixel, fbClear]

/-- Inverting pixels that are all different inverts each of them once. -/
theorem fbPixel_foldl {ps : List Pixel} (h : ps.Nodup) (fb : Framebuffer) (hit : Bool) (q : Pixel) :
    fbPixel (ps.foldl blitPixel (fb, hit)).1 q = (fbPixel fb q ^^ decide (q ∈ ps)) := by
  induction ps generalizing fb hit with
  | nil => simp
  | cons p rest ih =>
    obtain ⟨hp, hr⟩ := List.nodup_cons.1 h
    rw [List.foldl_cons, blitPixel, ih hr, fbPixel_toggle]
    by_cases hq : q = p
    · subst hq; simp [hp]
    · simp [hq]

/-- `hit` is set when one of those pixels was on. -/
theorem hit_foldl {ps : List Pixel} (h : ps.Nodup) (fb : Framebuffer) (hit : Bool) :
    (ps.foldl blitPixel (fb, hit)).2 = (hit || ps.any (fbPixel fb)) := by
  induction ps generalizing fb hit with
  | nil => simp
  | cons p rest ih =>
    obtain ⟨hp, hr⟩ := List.nodup_cons.1 h
    rw [List.foldl_cons, blitPixel, ih hr, List.any_cons, Bool.or_assoc]
    congr 2
    rw [Bool.eq_iff_iff, List.any_eq_true, List.any_eq_true]
    have ne : ∀ q ∈ rest, q ≠ p := fun q hq e => hp (e ▸ hq)
    constructor <;> rintro ⟨q, hq, hv⟩ <;> exact ⟨q, hq, by simpa [fbPixel_toggle, ne q hq] using hv⟩

/-- The pixels of a sprite row: those of the row's 1 bits. -/
theorem mem_spriteRow (x0 y0 : Byte) (r : Nat) (b : Byte) (q : Pixel) :
    q ∈ spriteRow x0 y0 r b ↔ ∃ c, c < 8 ∧ b.getLsbD (7 - c) = true ∧ q = spritePixel x0 y0 r c := by
  simp only [spriteRow, List.mem_map, List.mem_filter, List.mem_range, and_assoc, eq_comm]

/-- The pixels of a sprite: row `j` of it in framebuffer row `(y0 + r + j) mod 32`. -/
theorem mem_spritePixels (x0 y0 : Byte) (r : Nat) (bs : List Byte) (q : Pixel) :
    q ∈ spritePixels x0 y0 r bs ↔
      ∃ j, ∃ h : j < bs.length, ∃ c, c < 8 ∧ (bs[j]).getLsbD (7 - c) = true ∧ q = spritePixel x0 y0 (r + j) c := by
  induction bs generalizing r with
  | nil => simp [spritePixels]
  | cons b rest ih =>
    rw [spritePixels, List.mem_append, mem_spriteRow, ih]
    constructor
    · rintro (⟨c, hc⟩ | ⟨j, hj, c, hc⟩)
      · exact ⟨0, by simp, c, by simpa using hc⟩
      · exact ⟨j + 1, by simpa using hj, c, by simpa [Nat.add_assoc, Nat.add_comm 1 j] using hc⟩
    · rintro ⟨j, hj, c, hc⟩
      cases j with
      | zero => exact .inl ⟨c, by simpa using hc⟩
      | succ j => exact .inr ⟨j, by simpa using hj, c, by simpa [Nat.add_assoc, Nat.add_comm 1 j] using hc⟩

theorem spritePixel_col_inj {x0 y0 : Byte} {r r' c c' : Nat} (hc : c < 8) (hc' : c' < 8)
    (h : spritePixel x0 y0 r c = spritePixel x0 y0 r' c') : c = c' := by
  have := congrArg (fun p : Pixel => p.1.val) h
  simp only [spritePixel, Fin.val_ofNat] at this
  omega

theorem spritePixel_row_inj {x0 y0 : Byte} {r r' c c' : Nat} (hr : r ≤ r' + 31) (hr' : r' ≤ r + 31)
    (h : spritePixel x0 y0 r c = spritePixel x0 y0 r' c') : r = r' := by
  have := congrArg (fun p : Pixel => p.2.val) h
  simp only [spritePixel, Fin.val_ofNat] at this
  omega

/-- Within one blit no pixel is touched twice (R132 (d)). -/
theorem spritePixels_nodup (x0 y0 : Byte) (r : Nat) {bs : List Byte} (h : bs.length ≤ 32) : (spritePixels x0 y0 r bs).Nodup := by
  induction bs generalizing r with
  | nil => simp [spritePixels]
  | cons b rest ih =>
    simp only [List.length_cons] at h
    rw [spritePixels, List.nodup_append]
    refine ⟨?_, ih _ (by omega), ?_⟩
    · refine List.Nodup.map_on ?_ (List.nodup_range.filter _)
      intro c hc c' hc' e
      exact spritePixel_col_inj (by simpa using (List.mem_filter.1 hc).1) (by simpa using (List.mem_filter.1 hc').1) e
    · rintro q hq _ hq' rfl
      obtain ⟨c, hc, -, rfl⟩ := (mem_spriteRow ..).1 hq
      obtain ⟨j, hj, c', hc', -, e⟩ := (mem_spritePixels ..).1 hq'
      have := spritePixel_row_inj (by omega) (by omega) e
      omega

/-- The framebuffer after a blit: the sprite's pixels inverted, all others as before (R132 (a) to (d)). -/
theorem fbPixel_blit (fb : Framebuffer) (x0 y0 : Byte) {rows : List Byte} (h : rows.length ≤ 32) (q : Pixel) :
    fbPixel (blit fb x0 y0 rows).1 q = (fbPixel fb q ^^ decide (q ∈ spritePixels x0 y0 0 rows)) :=
  fbPixel_foldl (spritePixels_nodup x0 y0 0 h) fb false q

/-- The collision: some pixel of the sprite was on (R132 (c)). -/
theorem hit_blit (fb : Framebuffer) (x0 y0 : Byte) {rows : List Byte} (h : rows.length ≤ 32) :
    (blit fb x0 y0 rows).2 = (spritePixels x0 y0 0 rows).any (fbPixel fb) := by
  rw [blit, hit_foldl (spritePixels_nodup x0 y0 0 h), Bool.false_or]

end Sys2Proof.Machine
end

