-- ==== Sys2Proof/Laws/Encoding.lean ====
section
/-! SUPPORT. The fields of a word put together from fields, and a word put together from its fields (spec/30_encoding.md R61, R62). -/

namespace Sys2Proof

section Fields

variable (f x y d : Nibble) (nn : Byte) (nnn : Addr) (op : Word)

theorem wordXY_toNat : (wordXY f x y d).toNat = f.toNat * 4096 + x.toNat * 256 + y.toNat * 16 + d.toNat := by
  have hx := x.isLt; have hy := y.isLt; have hd := d.isLt
  simp only [wordXY, BitVec.toNat_append, Nat.shiftLeft_eq]
  rw [← Nat.shiftLeft_eq, ← Nat.shiftLeft_eq, ← Nat.shiftLeft_eq,
    ← Nat.shiftLeft_add_eq_or_of_lt (by omega), ← Nat.shiftLeft_add_eq_or_of_lt (by omega),
    ← Nat.shiftLeft_add_eq_or_of_lt (by omega)]
  simp only [Nat.shiftLeft_eq]
  omega

theorem wordXNN_toNat : (wordXNN f x nn).toNat = f.toNat * 4096 + x.toNat * 256 + nn.toNat := by
  have hx := x.isLt; have hn := nn.isLt
  simp only [wordXNN, BitVec.toNat_append]
  rw [← Nat.shiftLeft_add_eq_or_of_lt (by omega), ← Nat.shiftLeft_add_eq_or_of_lt (by omega)]
  simp only [Nat.shiftLeft_eq]
  omega

theorem wordNNN_toNat : (wordNNN f nnn).toNat = f.toNat * 4096 + nnn.toNat := by
  have hn := nnn.isLt
  simp only [wordNNN, BitVec.toNat_append]
  rw [← Nat.shiftLeft_add_eq_or_of_lt (by omega)]
  simp only [Nat.shiftLeft_eq]

theorem famField_toNat : (famField op).toNat = op.toNat / 4096 := by
  have := op.isLt
  simp only [famField, BitVec.extractLsb'_toNat, Nat.shiftRight_eq_div_pow]
  omega

theorem xField_toNat : (xField op).toNat = op.toNat / 256 % 16 := by
  simp [xField, BitVec.extractLsb'_toNat, Nat.shiftRight_eq_div_pow]

theorem yField_toNat : (yField op).toNat = op.toNat / 16 % 16 := by
  simp [yField, BitVec.extractLsb'_toNat, Nat.shiftRight_eq_div_pow]

theorem nField_toNat : (nField op).toNat = op.toNat % 16 := by simp [nField, BitVec.extractLsb'_toNat]

theorem nnField_toNat : (nnField op).toNat = op.toNat % 256 := by simp [nnField, BitVec.extractLsb'_toNat]

theorem nnnField_toNat : (nnnField op).toNat = op.toNat % 4096 := by simp [nnnField, BitVec.extractLsb'_toNat]

end Fields

/-- Two words, or fields, with the same number are the same: the numbers of the fields decide it. -/
theorem word_fields_ext {w : Nat} {a b : BitVec w} (h : a.toNat = b.toNat) : a = b := BitVec.eq_of_toNat_eq h

section Packed

variable (f x y d : Nibble) (nn : Byte) (nnn : Addr) (op : Word)

@[simp] theorem famField_wordXY : famField (wordXY f x y d) = f :=
  word_fields_ext (by rw [famField_toNat, wordXY_toNat]; omega)

@[simp] theorem xField_wordXY : xField (wordXY f x y d) = x :=
  word_fields_ext (by rw [xField_toNat, wordXY_toNat]; omega)

@[simp] theorem yField_wordXY : yField (wordXY f x y d) = y :=
  word_fields_ext (by rw [yField_toNat, wordXY_toNat]; omega)

@[simp] theorem nField_wordXY : nField (wordXY f x y d) = d :=
  word_fields_ext (by rw [nField_toNat, wordXY_toNat]; omega)

@[simp] theorem famField_wordXNN : famField (wordXNN f x nn) = f :=
  word_fields_ext (by rw [famField_toNat, wordXNN_toNat]; omega)

@[simp] theorem xField_wordXNN : xField (wordXNN f x nn) = x :=
  word_fields_ext (by rw [xField_toNat, wordXNN_toNat]; omega)

@[simp] theorem nnField_wordXNN : nnField (wordXNN f x nn) = nn :=
  word_fields_ext (by rw [nnField_toNat, wordXNN_toNat]; omega)

@[simp] theorem famField_wordNNN : famField (wordNNN f nnn) = f :=
  word_fields_ext (by rw [famField_toNat, wordNNN_toNat]; omega)

@[simp] theorem nnnField_wordNNN : nnnField (wordNNN f nnn) = nnn :=
  word_fields_ext (by rw [nnnField_toNat, wordNNN_toNat]; omega)

/-- A word is its family, `x`, `y` and low nibble. -/
theorem wordXY_fields : wordXY (famField op) (xField op) (yField op) (nField op) = op :=
  word_fields_ext (by rw [wordXY_toNat, famField_toNat, xField_toNat, yField_toNat, nField_toNat]; omega)

/-- A word is its family, `x` and low byte. -/
theorem wordXNN_fields : wordXNN (famField op) (xField op) (nnField op) = op :=
  word_fields_ext (by rw [wordXNN_toNat, famField_toNat, xField_toNat, nnField_toNat]; omega)

/-- A word is its family and low twelve bits. -/
theorem wordNNN_fields : wordNNN (famField op) (nnnField op) = op :=
  word_fields_ext (by rw [wordNNN_toNat, famField_toNat, nnnField_toNat]; omega)

end Packed

/-- The two bytes of a word, read back in memory's order, are the word (R42, R60). -/
theorem wordOfBytes_bytes (op : Word) : wordOfBytes (op.extractLsb' 8 8) (op.extractLsb' 0 8) = op := by
  apply word_fields_ext
  have h1 := op.isLt
  simp only [wordOfBytes, BitVec.toNat_append, BitVec.extractLsb'_toNat, Nat.shiftRight_eq_div_pow]
  rw [← Nat.shiftLeft_add_eq_or_of_lt (by omega)]
  simp only [Nat.shiftLeft_eq]
  omega

/-- `high_byte << 8 | low_byte` as a number (R42). -/
theorem wordOfBytes_toNat (hi lo : Byte) : (wordOfBytes hi lo).toNat = hi.toNat * 256 + lo.toNat := by
  have := lo.isLt
  simp only [wordOfBytes, BitVec.toNat_append]
  rw [← Nat.shiftLeft_add_eq_or_of_lt (by omega)]
  simp only [Nat.shiftLeft_eq]

/-- Decoding the bytes of a word is decoding the word. -/
theorem decode_bytesOfWord (op : Word) (rest : List Byte) :
    decode (bytesOfWord op ++ rest) = (decodeWord op).map (fun i => (i, rest)) := by
  simp only [bytesOfWord, List.cons_append, List.nil_append, decode, wordOfBytes_bytes]
  cases decodeWord op <;> rfl

end Sys2Proof
end

