-- ==== Sys2Proof/Laws/Memory.lean ====
section
/-! SUPPORT. The laws of memory: a read after a write, and that every write keeps the canonical form. -/

namespace Sys2Proof.Machine

theorem Memory.lookup_erase (m : Memory) (a c : Nat) :
    Memory.lookup (Memory.erase m a) c = if c = a then none else Memory.lookup m c := by
  induction m with
  | nil => simp [Memory.erase, Memory.lookup]
  | cons p rest ih =>
    obtain ⟨b, u⟩ := p
    by_cases hb : b = a
    · subst hb
      simp only [Memory.erase, Memory.lookup] at ih ⊢
      by_cases hc : c = b <;> simp_all
    · simp only [Memory.erase, Memory.lookup] at ih ⊢
      by_cases hc : c = b
      · subst hc; simp [hb, Memory.lookup]
      · simp_all [Memory.lookup]

theorem Memory.lookup_insert (m : Memory) (a c : Nat) (w : Byte) :
    Memory.lookup (Memory.insert m a w) c = if c = a then some w else Memory.lookup m c := by
  induction m with
  | nil => simp [Memory.insert, Memory.lookup]
  | cons p rest ih =>
    obtain ⟨b, u⟩ := p
    simp only [Memory.insert]
    split
    · simp [Memory.lookup]
    · split
      · rename_i h; subst h
        by_cases hc : c = a <;> simp [Memory.lookup, hc]
      · rename_i hab
        by_cases hc : c = b
        · subst hc; simp [Memory.lookup, Ne.symm hab]
        · simp [Memory.lookup, hc, ih]

/-- A read after a write: the byte written at its own address, the byte from before everywhere else (R47, R51). -/
theorem Memory.read_write (m : Memory) (a c : Addr) (w : Byte) :
    Memory.read (Memory.write m a w) c = if c = a then w else Memory.read m c := by
  have key : c = a ↔ c.toNat = a.toNat := BitVec.toNat_inj.symm
  unfold Memory.read Memory.write
  split
  · rename_i h
    rw [Memory.lookup_erase]
    by_cases hc : c = a
    · subst hc; simp [h]
    · rw [if_neg (fun h => hc (key.mpr h)), if_neg hc]
  · rw [Memory.lookup_insert]
    by_cases hc : c = a
    · subst hc; simp
    · rw [if_neg (fun h => hc (key.mpr h)), if_neg hc]

theorem readByte_writeByte (s : State) (a c : Addr) (w : Byte) :
    (s.writeByte a w).readByte c = if c = a then w else s.readByte c :=
  Memory.read_write s.mem a c w

theorem Memory.risesFrom_mono {lo lo' : Nat} (h : lo' ≤ lo) {m : Memory} (hm : Memory.risesFrom lo m = true) :
    Memory.risesFrom lo' m = true := by
  cases m with
  | nil => rfl
  | cons p rest =>
    simp only [Memory.risesFrom, Bool.and_eq_true, decide_eq_true_eq] at hm ⊢
    exact ⟨⟨⟨h.trans hm.1.1.1, hm.1.1.2⟩, hm.1.2⟩, hm.2⟩

theorem Memory.erase_risesFrom {lo : Nat} {m : Memory} (a : Nat) (hm : Memory.risesFrom lo m = true) :
    Memory.risesFrom lo (Memory.erase m a) = true := by
  induction m generalizing lo with
  | nil => rfl
  | cons p rest ih =>
    obtain ⟨b, u⟩ := p
    simp only [Memory.risesFrom, Bool.and_eq_true, decide_eq_true_eq] at hm
    by_cases hb : b = a
    · have : Memory.erase ((b, u) :: rest) a = Memory.erase rest a := by simp [Memory.erase, hb]
      rw [this]
      exact ih (Memory.risesFrom_mono (by omega) hm.2)
    · have : Memory.erase ((b, u) :: rest) a = (b, u) :: Memory.erase rest a := by simp [Memory.erase, hb]
      rw [this]
      simp only [Memory.risesFrom, Bool.and_eq_true, decide_eq_true_eq]
      exact ⟨hm.1, ih hm.2⟩

theorem Memory.insert_risesFrom {lo : Nat} {m : Memory} {a : Nat} {w : Byte} (hm : Memory.risesFrom lo m = true)
    (hlo : lo ≤ a) (ha : a < 4096) (hw : w ≠ Memory.unlisted a) : Memory.risesFrom lo (Memory.insert m a w) = true := by
  induction m generalizing lo with
  | nil => simp [Memory.insert, Memory.risesFrom, hlo, ha, hw]
  | cons p rest ih =>
    obtain ⟨b, u⟩ := p
    simp only [Memory.risesFrom, Bool.and_eq_true, decide_eq_true_eq] at hm
    simp only [Memory.insert]
    split
    · rename_i h
      simp only [Memory.risesFrom, Bool.and_eq_true, decide_eq_true_eq]
      exact ⟨⟨⟨hlo, ha⟩, hw⟩, ⟨⟨h, hm.1.1.2⟩, hm.1.2⟩, hm.2⟩
    · split
      · rename_i h; subst h
        simp only [Memory.risesFrom, Bool.and_eq_true, decide_eq_true_eq]
        exact ⟨⟨⟨hlo, ha⟩, hw⟩, hm.2⟩
      · simp only [Memory.risesFrom, Bool.and_eq_true, decide_eq_true_eq]
        exact ⟨hm.1, ih hm.2 (by omega)⟩

/-- Every write keeps the canonical form. -/
theorem Memory.write_wf {m : Memory} (hm : Memory.wf m = true) (a : Addr) (w : Byte) : Memory.wf (Memory.write m a w) = true := by
  unfold Memory.write
  split
  · exact Memory.erase_risesFrom _ hm
  · exact Memory.insert_risesFrom hm (Nat.zero_le _) a.isLt ‹_›

theorem writeByte_wf {s : State} (hs : Memory.wf s.mem = true) (a : Addr) (w : Byte) : Memory.wf (s.writeByte a w).mem = true :=
  Memory.write_wf hs a w

/-! ### Storing several bytes at `EA(k)`, `EA(k + 1)` and so on -/

/-- A store of several bytes changes memory and nothing else. -/
theorem storeBytes_eq_mem (s : State) (k : Nat) (bs : List Byte) :
    s.storeBytes k bs = { s with mem := (s.storeBytes k bs).mem } := by
  induction bs generalizing s k with
  | nil => rfl
  | cons b rest ih =>
    rw [State.storeBytes, ih]
    rfl

theorem storeBytes_wf {s : State} (hs : Memory.wf s.mem = true) (k : Nat) (bs : List Byte) :
    Memory.wf (s.storeBytes k bs).mem = true := by
  induction bs generalizing s k with
  | nil => exact hs
  | cons b rest ih => exact ih (writeByte_wf hs _ _) _

/-- No effective address of an instruction's range is met twice: the offsets differ by less than 4096 (R47). -/
theorem ea_inj {s : State} {j k : Nat} (hj : j < 4096) (hk : k < 4096) (h : s.ea j = s.ea k) : j = k := by
  have := congrArg BitVec.toNat h
  simp only [State.ea, BitVec.toNat_setWidth, BitVec.toNat_add, BitVec.toNat_ofNat] at this
  omega

/-- `EA(k)` as a number (R46). -/
theorem ea_toNat (s : State) (k : Nat) : (s.ea k).toNat = (s.i.toNat + k) % 4096 := by
  simp only [State.ea, BitVec.toNat_setWidth, BitVec.toNat_add, BitVec.toNat_ofNat]
  omega

/-- Outside the addresses stored to, memory reads as before. -/
theorem readByte_storeBytes_other (s : State) (k : Nat) (bs : List Byte) (a : Addr)
    (h : ∀ j, j < bs.length → a ≠ s.ea (k + j)) : (s.storeBytes k bs).readByte a = s.readByte a := by
  induction bs generalizing s k with
  | nil => rfl
  | cons b rest ih =>
    rw [State.storeBytes, ih, readByte_writeByte, if_neg (by simpa using h 0 (by simp))]
    intro j hj
    have := h (j + 1) (by simpa using hj)
    simpa [Nat.add_assoc, Nat.add_comm 1 j] using this

/-- At the `j`-th address stored to, memory reads as the `j`-th byte. -/
theorem readByte_storeBytes (s : State) (k : Nat) (bs : List Byte) (hk : k + bs.length ≤ 4096) (j : Nat) (hj : j < bs.length) :
    (s.storeBytes k bs).readByte (s.ea (k + j)) = bs[j] := by
  induction bs generalizing s k j with
  | nil => simp at hj
  | cons b rest ih =>
    simp only [List.length_cons] at hk hj
    cases j with
    | zero =>
      rw [State.storeBytes, readByte_storeBytes_other]
      · simp [readByte_writeByte]
      · intro j hj' h
        have := ea_inj (s := s) (by omega) (by omega) h
        omega
    | succ j =>
      have := ih (s.writeByte (s.ea k) b) (k + 1) (by omega) j (by omega)
      simpa [State.storeBytes, Nat.add_assoc, Nat.add_comm 1 j] using this

/-! ### Loading bytes at consecutive addresses, and a word at `pc` -/

/-- A load changes memory and nothing else. -/
theorem loadAt_eq_mem (s : State) (a : Nat) (bs : List Byte) : s.loadAt a bs = { s with mem := (s.loadAt a bs).mem } := by
  induction bs generalizing s a with
  | nil => rfl
  | cons b rest ih =>
    rw [State.loadAt, ih]
    rfl

/-- Outside the addresses loaded, memory reads as before. -/
theorem readByte_loadAt_other (s : State) (a : Nat) (bs : List Byte) (c : Addr)
    (h : ∀ j, j < bs.length → c ≠ BitVec.ofNat 12 (a + j)) : (s.loadAt a bs).readByte c = s.readByte c := by
  induction bs generalizing s a with
  | nil => rfl
  | cons b rest ih =>
    rw [State.loadAt, ih, readByte_writeByte, if_neg (by simpa using h 0 (by simp))]
    intro j hj
    have := h (j + 1) (by simpa using hj)
    simpa [Nat.add_assoc, Nat.add_comm 1 j] using this

/-- At the `j`-th address loaded, memory reads as the `j`-th byte. -/
theorem readByte_loadAt (s : State) (a : Nat) (bs : List Byte) (hl : a + bs.length ≤ 4096) (j : Nat) (hj : j < bs.length) :
    (s.loadAt a bs).readByte (BitVec.ofNat 12 (a + j)) = bs[j] := by
  induction bs generalizing s a j with
  | nil => simp at hj
  | cons b rest ih =>
    simp only [List.length_cons] at hl hj
    cases j with
    | zero =>
      rw [State.loadAt, readByte_loadAt_other]
      · simp [readByte_writeByte]
      · intro j hj h
        have := congrArg BitVec.toNat h
        simp at this
        omega
    | succ j =>
      have := ih (s.writeByte (BitVec.ofNat 12 a) b) (a + 1) (by omega) j (by omega)
      simpa [State.loadAt, Nat.add_assoc, Nat.add_comm 1 j] using this

/-- A word stored at `pc` is the word fetched there (R42). -/
theorem fetchWord_storeWordAtPc {s : State} (op : Word) (h : s.pc ≤ 0xFFE#16) : (s.storeWordAtPc op).fetchWord = some op := by
  have h' : s.pc.toNat ≤ 4094 := by simpa [BitVec.le_def] using h
  have hne : s.pc.setWidth 12 ≠ (s.pc + 1).setWidth 12 := by
    intro e
    have := congrArg BitVec.toNat e
    simp at this
    omega
  have e1 : (s.storeWordAtPc op).readByte (s.pc.setWidth 12) = op.extractLsb' 8 8 := by
    simp only [State.storeWordAtPc, readByte_writeByte, if_neg hne, if_pos]
  have e2 : (s.storeWordAtPc op).readByte ((s.pc + 1).setWidth 12) = op.extractLsb' 0 8 := by
    simp only [State.storeWordAtPc, readByte_writeByte, if_pos]
  have hpc : (s.storeWordAtPc op).pc = s.pc := rfl
  rw [State.fetchWord, hpc, if_pos h, e1, e2, wordOfBytes_bytes]

/-- Where a fetch finds a word: exactly for `pc` at most `0xFFE` (R43). -/
theorem fetchWord_isSome_iff (s : State) : s.fetchWord.isSome = true ↔ s.pc.toNat ≤ 0xFFE := by
  unfold State.fetchWord
  split <;> simp_all [BitVec.le_def]

end Sys2Proof.Machine
end

