-- ==== Sys2Proof/Laws/PerInstr.lean ====
section
/-! SUPPORT. Per instruction: its word lies on the opcode-map row of its mnemonic (spec/30_encoding.md R65). -/

namespace Sys2Proof.Laws.OnOpcodeRow

/-- The encoded word is covered by the row of the opcode map that bears the instruction's mnemonic. -/
def Statement (i : Instr) : Prop := ∃ r ∈ opcodeMap, r.mnemonic = i.mnemonic ∧ r.covers (encode i) = true

theorem nibble_and_ones (a : Nibble) : a &&& 15#4 = a := BitVec.and_allOnes

theorem byte_and_ones (a : Byte) : a &&& 255#8 = a := BitVec.and_allOnes

theorem wordXY_and (f x y d : Nibble) : wordXY f x y d &&& 0xF00F#16 = wordXY f 0 0 d := by
  rw [show (0xF00F#16 : Word) = (((0xF#4 ++ 0#4 : BitVec 8) ++ 0#4 : BitVec 12) ++ 0xF#4) from rfl, wordXY, wordXY]
  erw [BitVec.and_append, BitVec.and_append, BitVec.and_append]
  simp [nibble_and_ones]

theorem wordXY_and_fam (f x y d : Nibble) : wordXY f x y d &&& 0xF000#16 = wordXY f 0 0 0 := by
  rw [show (0xF000#16 : Word) = (((0xF#4 ++ 0#4 : BitVec 8) ++ 0#4 : BitVec 12) ++ 0#4) from rfl, wordXY, wordXY]
  erw [BitVec.and_append, BitVec.and_append, BitVec.and_append]
  simp [nibble_and_ones]

theorem wordXNN_and_fam (f x : Nibble) (nn : Byte) : wordXNN f x nn &&& 0xF000#16 = wordXNN f 0 0 := by
  rw [show (0xF000#16 : Word) = ((0xF#4 ++ 0#4 : BitVec 8) ++ 0#8) from rfl, wordXNN, wordXNN]
  erw [BitVec.and_append, BitVec.and_append]
  simp [nibble_and_ones]

theorem wordXNN_and (f x : Nibble) (nn : Byte) : wordXNN f x nn &&& 0xF0FF#16 = wordXNN f 0 nn := by
  rw [show (0xF0FF#16 : Word) = ((0xF#4 ++ 0#4 : BitVec 8) ++ 0xFF#8) from rfl, wordXNN, wordXNN]
  erw [BitVec.and_append, BitVec.and_append]
  simp [nibble_and_ones, byte_and_ones]

theorem wordNNN_and_fam (f : Nibble) (nnn : Addr) : wordNNN f nnn &&& 0xF000#16 = wordNNN f 0 := by
  rw [show (0xF000#16 : Word) = (0xF#4 ++ 0#12) from rfl, wordNNN, wordNNN]
  erw [BitVec.and_append]
  simp [nibble_and_ones]

/-- On a row: the row is in the map, and the masked word is its pattern. -/
theorem on_row {i : Instr} (r : OpcodeRow) (hr : r ∈ opcodeMap) (hm : r.mnemonic = i.mnemonic)
    (hc : encode i &&& r.mask = r.pattern) : Statement i :=
  ⟨r, hr, hm, by simp [OpcodeRow.covers, hc]⟩

theorem cls : Statement .cls := on_row ⟨"CLS", 0x00E0#16, 0xFFFF#16⟩ (by decide) rfl rfl

theorem ret : Statement .ret := on_row ⟨"RET", 0x00EE#16, 0xFFFF#16⟩ (by decide) rfl rfl

theorem jp (nnn : Addr) : Statement (.jp nnn) :=
  on_row ⟨"JP", 0x1000#16, 0xF000#16⟩ (by decide) rfl (wordNNN_and_fam ..)

theorem call (nnn : Addr) : Statement (.call nnn) :=
  on_row ⟨"CALL", 0x2000#16, 0xF000#16⟩ (by decide) rfl (wordNNN_and_fam ..)

theorem seVxNn (x : RegIx) (nn : Byte) : Statement (.seVxNn x nn) :=
  on_row ⟨"SE_VX_NN", 0x3000#16, 0xF000#16⟩ (by decide) rfl (wordXNN_and_fam ..)

theorem sneVxNn (x : RegIx) (nn : Byte) : Statement (.sneVxNn x nn) :=
  on_row ⟨"SNE_VX_NN", 0x4000#16, 0xF000#16⟩ (by decide) rfl (wordXNN_and_fam ..)

theorem seVxVy (x y : RegIx) : Statement (.seVxVy x y) :=
  on_row ⟨"SE_VX_VY", 0x5000#16, 0xF00F#16⟩ (by decide) rfl (wordXY_and ..)

theorem ldVxNn (x : RegIx) (nn : Byte) : Statement (.ldVxNn x nn) :=
  on_row ⟨"LD_VX_NN", 0x6000#16, 0xF000#16⟩ (by decide) rfl (wordXNN_and_fam ..)

theorem addVxNn (x : RegIx) (nn : Byte) : Statement (.addVxNn x nn) :=
  on_row ⟨"ADD_VX_NN", 0x7000#16, 0xF000#16⟩ (by decide) rfl (wordXNN_and_fam ..)

theorem ldVxVy (x y : RegIx) : Statement (.ldVxVy x y) :=
  on_row ⟨"LD_VX_VY", 0x8000#16, 0xF00F#16⟩ (by decide) rfl (wordXY_and ..)

theorem orVxVy (x y : RegIx) : Statement (.orVxVy x y) :=
  on_row ⟨"OR", 0x8001#16, 0xF00F#16⟩ (by decide) rfl (wordXY_and ..)

theorem andVxVy (x y : RegIx) : Statement (.andVxVy x y) :=
  on_row ⟨"AND", 0x8002#16, 0xF00F#16⟩ (by decide) rfl (wordXY_and ..)

theorem xorVxVy (x y : RegIx) : Statement (.xorVxVy x y) :=
  on_row ⟨"XOR", 0x8003#16, 0xF00F#16⟩ (by decide) rfl (wordXY_and ..)

theorem addVxVy (x y : RegIx) : Statement (.addVxVy x y) :=
  on_row ⟨"ADD_VX_VY", 0x8004#16, 0xF00F#16⟩ (by decide) rfl (wordXY_and ..)

theorem subVxVy (x y : RegIx) : Statement (.subVxVy x y) :=
  on_row ⟨"SUB", 0x8005#16, 0xF00F#16⟩ (by decide) rfl (wordXY_and ..)

theorem shrVx (x y : RegIx) : Statement (.shrVx x y) :=
  on_row ⟨"SHR", 0x8006#16, 0xF00F#16⟩ (by decide) rfl (wordXY_and ..)

theorem subnVxVy (x y : RegIx) : Statement (.subnVxVy x y) :=
  on_row ⟨"SUBN", 0x8007#16, 0xF00F#16⟩ (by decide) rfl (wordXY_and ..)

theorem shlVx (x y : RegIx) : Statement (.shlVx x y) :=
  on_row ⟨"SHL", 0x800E#16, 0xF00F#16⟩ (by decide) rfl (wordXY_and ..)

theorem sneVxVy (x y : RegIx) : Statement (.sneVxVy x y) :=
  on_row ⟨"SNE_VX_VY", 0x9000#16, 0xF00F#16⟩ (by decide) rfl (wordXY_and ..)

theorem ldINnn (nnn : Addr) : Statement (.ldINnn nnn) :=
  on_row ⟨"LD_I_NNN", 0xA000#16, 0xF000#16⟩ (by decide) rfl (wordNNN_and_fam ..)

theorem jpV0 (nnn : Addr) : Statement (.jpV0 nnn) :=
  on_row ⟨"JP_V0", 0xB000#16, 0xF000#16⟩ (by decide) rfl (wordNNN_and_fam ..)

theorem rndVxNn (x : RegIx) (nn : Byte) : Statement (.rndVxNn x nn) :=
  on_row ⟨"RND", 0xC000#16, 0xF000#16⟩ (by decide) rfl (wordXNN_and_fam ..)

theorem drw (x y : RegIx) (n : Nibble) : Statement (.drw x y n) :=
  on_row ⟨"DRW", 0xD000#16, 0xF000#16⟩ (by decide) rfl (wordXY_and_fam ..)

theorem skp (x : RegIx) : Statement (.skp x) :=
  on_row ⟨"SKP", 0xE09E#16, 0xF0FF#16⟩ (by decide) rfl (wordXNN_and ..)

theorem sknp (x : RegIx) : Statement (.sknp x) :=
  on_row ⟨"SKNP", 0xE0A1#16, 0xF0FF#16⟩ (by decide) rfl (wordXNN_and ..)

theorem ldVxDt (x : RegIx) : Statement (.ldVxDt x) :=
  on_row ⟨"LD_VX_DT", 0xF007#16, 0xF0FF#16⟩ (by decide) rfl (wordXNN_and ..)

theorem ldVxK (x : RegIx) : Statement (.ldVxK x) :=
  on_row ⟨"LD_VX_K", 0xF00A#16, 0xF0FF#16⟩ (by decide) rfl (wordXNN_and ..)

theorem ldDtVx (x : RegIx) : Statement (.ldDtVx x) :=
  on_row ⟨"LD_DT_VX", 0xF015#16, 0xF0FF#16⟩ (by decide) rfl (wordXNN_and ..)

theorem ldStVx (x : RegIx) : Statement (.ldStVx x) :=
  on_row ⟨"LD_ST_VX", 0xF018#16, 0xF0FF#16⟩ (by decide) rfl (wordXNN_and ..)

theorem addIVx (x : RegIx) : Statement (.addIVx x) :=
  on_row ⟨"ADD_I_VX", 0xF01E#16, 0xF0FF#16⟩ (by decide) rfl (wordXNN_and ..)

theorem ldFVx (x : RegIx) : Statement (.ldFVx x) :=
  on_row ⟨"LD_F_VX", 0xF029#16, 0xF0FF#16⟩ (by decide) rfl (wordXNN_and ..)

theorem ldBVx (x : RegIx) : Statement (.ldBVx x) :=
  on_row ⟨"LD_B_VX", 0xF033#16, 0xF0FF#16⟩ (by decide) rfl (wordXNN_and ..)

theorem ldMemVx (x : RegIx) : Statement (.ldMemVx x) :=
  on_row ⟨"LD_MEM_VX", 0xF055#16, 0xF0FF#16⟩ (by decide) rfl (wordXNN_and ..)

theorem ldVxMem (x : RegIx) : Statement (.ldVxMem x) :=
  on_row ⟨"LD_VX_MEM", 0xF065#16, 0xF0FF#16⟩ (by decide) rfl (wordXNN_and ..)

end Sys2Proof.Laws.OnOpcodeRow
end

