-- ==== Sys2Proof/Laws/Registers.lean ====
section
/-! SUPPORT. The laws of the registers, the call stack, the timers and the keys: what each shared operation can do, said once. -/

namespace Sys2Proof.Machine

/-- A register reads back what was written; no two registers alias (R20). -/
@[simp] theorem getV_setV (s : State) (x y : RegIx) (b : Byte) : (s.setV x b).getV y = if y = x then b else s.getV y := by
  have key : y = x ↔ x.toNat = y.toNat := ⟨fun h => h ▸ rfl, fun h => (BitVec.eq_of_toNat_eq h).symm⟩
  simp [State.setV, State.getV, Vector.getElem_set, key]

/-- Writing several registers changes `V` and nothing else. -/
theorem setRegs_eq_v (s : State) (k : Nat) (bs : List Byte) : s.setRegs k bs = { s with v := (s.setRegs k bs).v } := by
  induction bs generalizing s k with
  | nil => rfl
  | cons b rest ih =>
    rw [State.setRegs, ih]
    rfl

/-- A register after a run of register writes: its byte of the list if it is in the run, else as before. -/
theorem getV_setRegs (s : State) (k : Nat) (bs : List Byte) (hk : k + bs.length ≤ 16) (y : RegIx) :
    (s.setRegs k bs).getV y = if h : k ≤ y.toNat ∧ y.toNat < k + bs.length then bs[y.toNat - k]'(by omega) else s.getV y := by
  induction bs generalizing s k with
  | nil => simp [State.setRegs]
  | cons b rest ih =>
    simp only [List.length_cons] at hk
    rw [State.setRegs, ih _ _ (by omega)]
    by_cases hy : y.toNat = k
    · have : y = BitVec.ofNat 4 k := BitVec.eq_of_toNat_eq (by simp; omega)
      simp [this.symm, hy]
    · have : y ≠ BitVec.ofNat 4 k := fun h => hy (by have := congrArg BitVec.toNat h; simp at this; omega)
      by_cases hin : k + 1 ≤ y.toNat ∧ y.toNat < k + 1 + rest.length
      · have e : y.toNat - k = (y.toNat - (k + 1)) + 1 := by omega
        rw [dif_pos hin, dif_pos (by simp only [List.length_cons]; omega)]
        simp [e]
      · rw [dif_neg hin, dif_neg (by simp only [List.length_cons]; omega), getV_setV, if_neg this]

@[simp] theorem length_regsUpTo (s : State) (x : RegIx) : (s.regsUpTo x).length = x.toNat + 1 := by simp [State.regsUpTo]

@[simp] theorem getElem_regsUpTo (s : State) (x : RegIx) (j : Nat) (h : j < (s.regsUpTo x).length) :
    (s.regsUpTo x)[j] = s.getV (BitVec.ofNat 4 j) := by simp [State.regsUpTo]

@[simp] theorem length_loadBytes (s : State) (n : Nat) : (s.loadBytes n).length = n := by simp [State.loadBytes]

@[simp] theorem getElem_loadBytes (s : State) (n j : Nat) (h : j < (s.loadBytes n).length) :
    (s.loadBytes n)[j] = s.readByte (s.ea j) := by simp [State.loadBytes]

/-- Everything a push can do (R24): refused on a full stack, else the entry and the depth. -/
theorem push_cases (s : State) (w : Word) :
    (s.sp.val = 16 ∧ s.push w = none) ∨
    ∃ h : s.sp.val < 16, s.push w =
      some { s with stk := s.stk.set s.sp.val w h, sp := ⟨s.sp.val + 1, Nat.succ_lt_succ h⟩ } := by
  by_cases h : s.sp.val < 16
  · exact .inr ⟨h, by simp [State.push, h]⟩
  · exact .inl ⟨by omega, by simp [State.push, h]⟩

/-- Everything a pop can do (R24): refused on an empty stack, else the newest entry and the depth. -/
theorem pop_cases (s : State) :
    (s.sp.val = 0 ∧ s.pop = none) ∨
    ∃ (hk : s.sp.val - 1 < 16), s.sp.val ≠ 0 ∧ s.pop =
      some (s.stkAt ⟨s.sp.val - 1, hk⟩, { s with sp := ⟨s.sp.val - 1, Nat.lt_succ_of_lt hk⟩ }) := by
  by_cases h : s.sp.val = 0
  · exact .inl ⟨h, by simp [State.pop, h]⟩
  · exact .inr ⟨by omega, h, by simp [State.pop, h]⟩

/-- A timer one tick later, as a number (R160). -/
theorem tickDown_toNat (b : Byte) : (tickDown b).toNat = b.toNat - 1 := by
  unfold tickDown
  split
  · simp_all
  · rename_i h
    have : b.toNat ≠ 0 := fun h' => h (BitVec.eq_of_toNat_eq h')
    rw [BitVec.toNat_sub_of_le (by rw [BitVec.le_def]; simp; omega)]
    simp

/-- The list of pressed keys holds exactly the pressed keys (R146). -/
theorem mem_pressedKeys (key : Word) (k : Nibble) : k ∈ pressedKeys key ↔ key.getLsbD k.toNat = true := by
  simp only [pressedKeys, List.mem_map, List.mem_filter, List.mem_range]
  constructor
  · rintro ⟨j, ⟨hj, hp⟩, rfl⟩
    simpa [Nat.mod_eq_of_lt hj] using hp
  · intro h
    exact ⟨k.toNat, ⟨k.isLt, h⟩, by simp⟩

theorem pressedKeys_ne_nil {key : Word} (h : key ≠ 0) : pressedKeys key ≠ [] := by
  intro hn
  apply h
  apply BitVec.eq_of_getLsbD_eq
  intro j hj
  cases hb : key.getLsbD j with
  | false => simp
  | true =>
    have : BitVec.ofNat 4 j ∈ pressedKeys key := (mem_pressedKeys _ _).2 (by simpa [Nat.mod_eq_of_lt hj] using hb)
    simp [hn] at this

/-- `KEY_PICK` delivers a pressed key (R146 (b)). -/
theorem keyPick_pressed {key : Word} (h : key ≠ 0) (pick : Nibble) : key.getLsbD (keyPick key pick).toNat = true := by
  have hl : 0 < (pressedKeys key).length := List.length_pos_iff.2 (pressedKeys_ne_nil h)
  rw [← mem_pressedKeys, keyPick, List.getD_eq_getElem _ _ (Nat.mod_lt _ hl)]
  exact List.getElem_mem _

theorem length_pressedKeys_le (key : Word) : (pressedKeys key).length ≤ 16 := by
  rw [pressedKeys, List.length_map]
  exact (List.length_filter_le _ _).trans (by simp)

/-- Every pressed key is delivered by some draw (decision D11). -/
theorem keyPick_surjective {key : Word} {k : Nibble} (h : key.getLsbD k.toNat = true) : ∃ pick, keyPick key pick = k := by
  obtain ⟨j, hj, rfl⟩ := List.getElem_of_mem ((mem_pressedKeys key k).2 h)
  have := length_pressedKeys_le key
  refine ⟨BitVec.ofNat 4 j, ?_⟩
  have e : (BitVec.ofNat 4 j).toNat % (pressedKeys key).length = j := by
    rw [BitVec.toNat_ofNat, Nat.mod_eq_of_lt (a := j) (by omega), Nat.mod_eq_of_lt hj]
  rw [keyPick, e, List.getD_eq_getElem _ _ hj]

end Sys2Proof.Machine
end

