-- ==== Sys2Proof/Laws/Step.lean ====
section
/-! SUPPORT. What a step can do, said once, and the frames of the operations that move several bytes. -/

namespace Sys2Proof.Machine

/-- Everything a step that answers a next state can be: a `Tick`, a look at the keys, a fetch out of bounds, or a fetched word run on
the sampled state. -/
theorem step_cases {s t : State} (h : step s = .next t) :
    s.halt = false ∧
    ((s.ticksDue ≠ 0 ∧ t = s.tickStep) ∨
     (s.ticksDue = 0 ∧ s.mode = .awaitingKey ∧ t = awaitStep s.sample) ∨
     (s.ticksDue = 0 ∧ s.mode = .running ∧ s.fetchWord = none ∧ t = s.sample.raise .pcOutOfBounds s.pc 0) ∨
     (s.ticksDue = 0 ∧ s.mode = .running ∧ ∃ op, s.fetchWord = some op ∧ runWord op s.sample = .next t)) := by
  unfold step at h
  split at h
  · cases h
  · rename_i hh
    refine ⟨by simpa using hh, ?_⟩
    split at h
    · rename_i ht
      injection h with h
      exact .inl ⟨ht, h.symm⟩
    · rename_i ht
      have ht : s.ticksDue = 0 := by simpa using ht
      simp only [cycle, sample_mode, sample_fetchWord] at h
      split at h
      · injection h with h
        exact .inr (.inl ⟨ht, ‹_›, h.symm⟩)
      · split at h
        · injection h with h
          exact .inr (.inr (.inl ⟨ht, ‹_›, ‹_›, h.symm⟩))
        · exact .inr (.inr (.inr ⟨ht, ‹_›, _, ‹_›, h⟩))

/-- Everything a word can do: its instruction, or the fault of a word that is none. -/
theorem runWord_cases {op : Word} {s t : State} (h : runWord op s = .next t) :
    (∃ i, decodeWord op = .ok i ∧ exec i s = .next t) ∨
    (∃ e, decodeWord op = .error e ∧ t = s.raise (faultOfDecodeError e) s.pc op) := by
  unfold runWord at h
  split at h
  · exact .inl ⟨_, ‹_›, h⟩
  · injection h with h
    exact .inr ⟨_, ‹_›, h.symm⟩

theorem onlyChanges_trans {ps : List Part} {s t u : State} (h : onlyChanges ps s t) (h' : onlyChanges ps t u) :
    onlyChanges ps s u := by
  intro p hp
  have a := h p hp
  have b := h' p hp
  cases p <;> simp_all [Part.same]

theorem storeBytes_frame (s : State) (k : Nat) (bs : List Byte) : onlyChanges [.memory] s (s.storeBytes k bs) := by
  rw [storeBytes_eq_mem]
  intro p hp
  cases p <;> simp_all [Part.same, State.getV, State.stkAt, State.pixel]

theorem loadAt_frame (s : State) (a : Nat) (bs : List Byte) : onlyChanges [.memory] s (s.loadAt a bs) := by
  rw [loadAt_eq_mem]
  intro p hp
  cases p <;> simp_all [Part.same, State.getV, State.stkAt, State.pixel]

theorem setRegs_frame (s : State) (k : Nat) (bs : List Byte) : onlyChanges [.regs] s (s.setRegs k bs) := by
  rw [setRegs_eq_v]
  intro p hp
  cases p <;> simp_all [Part.same, State.readByte, State.stkAt, State.pixel]

/-- The pixels a DRW inverts are those the sprite covers. -/
theorem mem_spritePixels_iff (s : State) (x y : RegIx) (n : Nibble) (p : Pixel) :
    p ∈ spritePixels (s.getV x) (s.getV y) 0 (s.loadBytes n.toNat) ↔ s.spriteCovers x y n p := by
  rw [mem_spritePixels, State.spriteCovers]
  constructor
  · rintro ⟨j, hj, c, hc, hb, rfl⟩
    exact ⟨j, c, by simpa using hj, hc, by simpa using hb, by simp [spritePixel], by simp [spritePixel]⟩
  · rintro ⟨r, c, hr, hc, hb, h1, h2⟩
    refine ⟨r, by simpa using hr, c, hc, by simpa using hb, ?_⟩
    obtain ⟨a, b⟩ := p
    simp only [spritePixel, Prod.mk.injEq]
    exact ⟨Fin.ext (by simpa using h1), Fin.ext (by simpa using h2)⟩

end Sys2Proof.Machine
end

