-- ==== Sys2Proof/Tests/Slice0.lean ====
section
/-! SUPPORT. The model's own tests. Expected values are from spec/95_test_vectors.md and from the words of the rules cited; a
test named test_witness_<Statement> shows states and operands that meet the hypotheses of a statement of Obligations.lean. -/

namespace Sys2Proof.Tests.Slice0

open Sys2Proof Sys2Proof.Machine

/-! ### Words and programs that are not well formed (spec/30_encoding.md R66, spec/70_reset_and_hazards.md R184) -/

/-- Section 2.1: one illegal word per family that has any. -/
theorem test_ill_formed_words :
    [0x0000#16, 0x01E0#16, 0x0123#16, 0x5AB1#16, 0x8AB8#16, 0x8ABF#16, 0x9ABF#16, 0xE19F#16, 0xF100#16, 0xF175#16, 0xFFFF#16].all
      (fun op => !legalWord op) = true := by decide

theorem test_ill_formed_rom : romFits (List.replicate 3585 0x00#8) = false := by
  rw [romFits, List.length_replicate]
  decide

theorem test_well_formed_rom : romFits (List.replicate 3584 0x00#8) = true := by
  rw [romFits, List.length_replicate]
  decide

/-- "no two rows overlap" (R64). -/
theorem test_rows_apart : (opcodeMap.all fun r => opcodeMap.all fun q => r == q || r.apart q) = true := by decide +kernel

/-- The font table of R55 has 80 bytes; glyph A is `F0 90 F0 90 90`. -/
theorem test_conventional_font : Config.conventionalFont.length = 80 ∧
    (Config.conventionalFont.drop 50).take 5 = [0xF0, 0x90, 0xF0, 0x90, 0x90] := by decide

/-! ### Decoding: words written out from the encodings of the spec -/

theorem test_decode_cls : decodeWord 0x00E0#16 = .ok (.cls) ∧ encode (.cls) = 0x00E0#16 := by decide
theorem test_decode_ret : decodeWord 0x00EE#16 = .ok (.ret) ∧ encode (.ret) = 0x00EE#16 := by decide
theorem test_decode_jp : decodeWord 0x1ABC#16 = .ok (.jp 0xABC) ∧ encode (.jp 0xABC) = 0x1ABC#16 := by decide
theorem test_decode_call : decodeWord 0x2FFF#16 = .ok (.call 0xFFF) ∧ encode (.call 0xFFF) = 0x2FFF#16 := by decide
theorem test_decode_se_vx_nn : decodeWord 0x3A7F#16 = .ok (.seVxNn 10 0x7F) ∧ encode (.seVxNn 10 0x7F) = 0x3A7F#16 := by decide
theorem test_decode_sne_vx_nn : decodeWord 0x4A05#16 = .ok (.sneVxNn 10 5) ∧ encode (.sneVxNn 10 5) = 0x4A05#16 := by decide
theorem test_decode_se_vx_vy : decodeWord 0x5AB0#16 = .ok (.seVxVy 10 11) ∧ encode (.seVxVy 10 11) = 0x5AB0#16 := by decide
theorem test_decode_ld_vx_nn : decodeWord 0x6A2C#16 = .ok (.ldVxNn 10 0x2C) ∧ encode (.ldVxNn 10 0x2C) = 0x6A2C#16 := by decide
theorem test_decode_add_vx_nn : decodeWord 0x71FF#16 = .ok (.addVxNn 1 0xFF) ∧ encode (.addVxNn 1 0xFF) = 0x71FF#16 := by decide
theorem test_decode_ld_vx_vy : decodeWord 0x8120#16 = .ok (.ldVxVy 1 2) ∧ encode (.ldVxVy 1 2) = 0x8120#16 := by decide
theorem test_decode_or : decodeWord 0x8121#16 = .ok (.orVxVy 1 2) ∧ encode (.orVxVy 1 2) = 0x8121#16 := by decide
theorem test_decode_and : decodeWord 0x8122#16 = .ok (.andVxVy 1 2) ∧ encode (.andVxVy 1 2) = 0x8122#16 := by decide
theorem test_decode_xor : decodeWord 0x8123#16 = .ok (.xorVxVy 1 2) ∧ encode (.xorVxVy 1 2) = 0x8123#16 := by decide
theorem test_decode_add_vx_vy : decodeWord 0x8124#16 = .ok (.addVxVy 1 2) ∧ encode (.addVxVy 1 2) = 0x8124#16 := by decide
theorem test_decode_sub : decodeWord 0x8125#16 = .ok (.subVxVy 1 2) ∧ encode (.subVxVy 1 2) = 0x8125#16 := by decide
theorem test_decode_shr : decodeWord 0x8AB6#16 = .ok (.shrVx 10 11) ∧ encode (.shrVx 10 11) = 0x8AB6#16 := by decide
theorem test_decode_subn : decodeWord 0x8127#16 = .ok (.subnVxVy 1 2) ∧ encode (.subnVxVy 1 2) = 0x8127#16 := by decide
theorem test_decode_shl : decodeWord 0x8ABE#16 = .ok (.shlVx 10 11) ∧ encode (.shlVx 10 11) = 0x8ABE#16 := by decide
theorem test_decode_sne_vx_vy : decodeWord 0x9AB0#16 = .ok (.sneVxVy 10 11) ∧ encode (.sneVxVy 10 11) = 0x9AB0#16 := by decide
theorem test_decode_ld_i : decodeWord 0xA2F0#16 = .ok (.ldINnn 0x2F0) ∧ encode (.ldINnn 0x2F0) = 0xA2F0#16 := by decide
theorem test_decode_jp_v0 : decodeWord 0xB300#16 = .ok (.jpV0 0x300) ∧ encode (.jpV0 0x300) = 0xB300#16 := by decide
theorem test_decode_rnd : decodeWord 0xC30F#16 = .ok (.rndVxNn 3 0x0F) ∧ encode (.rndVxNn 3 0x0F) = 0xC30F#16 := by decide
theorem test_decode_drw : decodeWord 0xD12F#16 = .ok (.drw 1 2 15) ∧ encode (.drw 1 2 15) = 0xD12F#16 := by decide
theorem test_decode_skp : decodeWord 0xE19E#16 = .ok (.skp 1) ∧ encode (.skp 1) = 0xE19E#16 := by decide
theorem test_decode_sknp : decodeWord 0xE1A1#16 = .ok (.sknp 1) ∧ encode (.sknp 1) = 0xE1A1#16 := by decide
theorem test_decode_ld_vx_dt : decodeWord 0xF107#16 = .ok (.ldVxDt 1) ∧ encode (.ldVxDt 1) = 0xF107#16 := by decide
theorem test_decode_ld_vx_k : decodeWord 0xF10A#16 = .ok (.ldVxK 1) ∧ encode (.ldVxK 1) = 0xF10A#16 := by decide
theorem test_decode_ld_dt_vx : decodeWord 0xF115#16 = .ok (.ldDtVx 1) ∧ encode (.ldDtVx 1) = 0xF115#16 := by decide
theorem test_decode_ld_st_vx : decodeWord 0xF218#16 = .ok (.ldStVx 2) ∧ encode (.ldStVx 2) = 0xF218#16 := by decide
theorem test_decode_add_i_vx : decodeWord 0xF31E#16 = .ok (.addIVx 3) ∧ encode (.addIVx 3) = 0xF31E#16 := by decide
theorem test_decode_ld_f_vx : decodeWord 0xF029#16 = .ok (.ldFVx 0) ∧ encode (.ldFVx 0) = 0xF029#16 := by decide
theorem test_decode_ld_b_vx : decodeWord 0xF233#16 = .ok (.ldBVx 2) ∧ encode (.ldBVx 2) = 0xF233#16 := by decide
theorem test_decode_ld_mem_vx : decodeWord 0xF155#16 = .ok (.ldMemVx 1) ∧ encode (.ldMemVx 1) = 0xF155#16 := by decide
theorem test_decode_ld_vx_mem : decodeWord 0xF265#16 = .ok (.ldVxMem 2) ∧ encode (.ldVxMem 2) = 0xF265#16 := by decide

/-- The first byte is the high one (S12). -/
theorem test_decode_bytes : decode [0x12#8, 0x34#8, 0x99#8] = .ok (.jp 0x234, [0x99#8]) := by decide

theorem test_decode_truncated : decode [0x12#8] = .error .truncated := by decide

theorem test_decode_table_word : decodeTableWord 16 0xF265 = some (.ldVxMem 2) ∧ decodeTableWord 16 0x0123 = none := by decide

/-! ### Meanings, on small states -/

/-- The instruction's next state, observed. -/
def after {α : Type} (i : Instr) (s : State) (f : State → α) : Option α :=
  match exec i s with
  | .next t => some (f t)
  | .fault _ | .refused _ => none

/-- A next state of a step, observed. -/
def stepped {α : Type} (s : State) (f : State → α) : Option α :=
  match step s with
  | .next t => some (f t)
  | .fault _ | .refused _ => none

/-- Reset with the instruction at `0x0300`, as the tables of section 2 start. -/
def at300 : State := State.reset.setPc 0x0300#16

/-- Two registers set. -/
def regs (x : RegIx) (a : Byte) (y : RegIx) (b : Byte) : State := (at300.setV x a).setV y b

/-- Bytes at consecutive addresses from `0x300`, with `I` there. -/
def data (bs : List Byte) : State := (at300.loadAt 0x300 bs).setI 0x0300#16

/-- Section 2.6, the last row but one: all off, VF kept. -/
theorem test_cls : after .cls ((at300.setV 15 1).setFb (fbToggle fbClear (63, 31))) (fun t => (t.pixel (63, 31), t.getV 15, t.pc)) = some (false, 0x01#8, 0x0302#16) := by decide

/-- Section 2.2. -/
theorem test_ret : after .ret { at300 with sp := 2, stk := at300.stk.set 1 0x0456#16 } (fun t => (t.sp, t.pc)) = some (1, 0x0456#16) := by decide
/-- Section 2.8. -/
theorem test_ret_empty : after .ret at300 (fun t => (t.halt, t.faultKindOut, t.faultPc, t.faultOp, t.pc)) = some (true, 3, 0x0300#16, 0x00EE#16, 0x0300#16) := by decide
/-- Section 2.2: an odd target. -/
theorem test_jp : after (.jp 0x201) at300 (·.pc) = some 0x0201#16 := by decide
/-- Section 2.2. -/
theorem test_call : after (.call 0x400) { at300 with sp := 15 } (fun t => (t.sp, t.stkAt 15, t.pc)) = some (16, 0x0302#16, 0x0400#16) := by decide
/-- Section 2.8. -/
theorem test_call_full : after (.call 0xABC) { at300 with sp := 16 } (fun t => (t.halt, t.faultKindOut, t.faultOp, t.sp)) = some (true, 2, 0x2ABC#16, 16) := by decide
/-- Section 2.2: V0 is used, not V2. -/
theorem test_jp_v0 : after (.jpV0 0x2FF) (regs 0 0x02 2 0x50) (·.pc) = some 0x0301#16 := by decide
/-- Section 2.2. -/
theorem test_jp_v0_high : after (.jpV0 0xFFF) (at300.setV 0 0xFF) (·.pc) = some 0x10FE#16 := by decide
theorem test_se_vx_nn : after (.seVxNn 10 5) (at300.setV 10 5) (·.pc) = some 0x0304#16 ∧ after (.seVxNn 10 5) (at300.setV 10 6) (·.pc) = some 0x0302#16 := by decide
theorem test_sne_vx_nn : after (.sneVxNn 10 5) (at300.setV 10 5) (·.pc) = some 0x0302#16 ∧ after (.sneVxNn 10 5) (at300.setV 10 6) (·.pc) = some 0x0304#16 := by decide
theorem test_se_vx_vy : after (.seVxVy 1 2) (regs 1 0x7F 2 0x7F) (·.pc) = some 0x0304#16 ∧ after (.seVxVy 1 2) (regs 1 0x7F 2 0x80) (·.pc) = some 0x0302#16 := by decide
theorem test_sne_vx_vy : after (.sneVxVy 1 2) (regs 1 1 2 2) (·.pc) = some 0x0304#16 ∧ after (.sneVxVy 1 1) (regs 1 1 2 2) (·.pc) = some 0x0302#16 := by decide
/-- Section 2.3: VF as data. -/
theorem test_ld_vx_nn : after (.ldVxNn 15 7) at300 (fun t => (t.getV 15, t.pc)) = some (0x07#8, 0x0302#16) := by decide
/-- Section 2.3: no carry flag. -/
theorem test_add_vx_nn : after (.addVxNn 1 1) (at300.setV 1 0xFF) (fun t => (t.getV 1, t.getV 15)) = some (0x00#8, 0x00#8) := by decide
/-- Section 2.3. -/
theorem test_rnd : after (.rndVxNn 3 0x0F) (at300.latch 0 0xA7 0) (·.getV 3) = some 0x07#8 := by decide
theorem test_ld_vx_vy : after (.ldVxVy 1 2) (regs 1 0x11 2 0x3C) (·.getV 1) = some 0x3C#8 := by decide
theorem test_or : after (.orVxVy 1 2) (regs 1 0xF0 2 0x0F) (·.getV 1) = some 0xFF#8 := by decide
theorem test_and : after (.andVxVy 1 2) (regs 1 0xF3 2 0x3C) (·.getV 1) = some 0x30#8 := by decide
theorem test_xor : after (.xorVxVy 1 2) (regs 1 0xFF 2 0x0F) (·.getV 1) = some 0xF0#8 := by decide
/-- S2. -/
theorem test_add_vx_vy : after (.addVxVy 1 2) (regs 1 0xFF 2 0x01) (fun t => (t.getV 1, t.getV 15)) = some (0x00#8, 0x01#8) := by decide
/-- Section 2.4, rows with VF as an operand: the sum is lost. -/
theorem test_add_vf_as_destination : after (.addVxVy 15 2) (regs 15 0x01 2 0x01) (·.getV 15) = some 0x00#8 := by decide
/-- S5. -/
theorem test_sub : after (.subVxVy 1 2) (regs 1 0x03 2 0x05) (fun t => (t.getV 1, t.getV 15)) = some (0xFE#8, 0x00#8) := by decide
theorem test_sub_equal : after (.subVxVy 1 2) (regs 1 0x07 2 0x07) (fun t => (t.getV 1, t.getV 15)) = some (0x00#8, 0x01#8) := by decide
theorem test_shr : after (.shrVx 1 2) (regs 1 0xFF 2 0x10) (fun t => (t.getV 1, t.getV 15, t.getV 2)) = some (0x7F#8, 0x01#8, 0x10#8) := by decide
theorem test_shr_vf : after (.shrVx 15 0) (at300.setV 15 0x03) (·.getV 15) = some 0x01#8 := by decide
theorem test_subn : after (.subnVxVy 1 2) (regs 1 0x05 2 0x03) (fun t => (t.getV 1, t.getV 15)) = some (0xFE#8, 0x00#8) := by decide
theorem test_subn_vf : after (.subnVxVy 15 2) (regs 15 0x03 2 0x05) (·.getV 15) = some 0x01#8 := by decide
theorem test_shl : after (.shlVx 1 2) (regs 1 0x81 2 0x10) (fun t => (t.getV 1, t.getV 15, t.getV 2)) = some (0x02#8, 0x01#8, 0x10#8) := by decide
theorem test_shl_vf : after (.shlVx 15 0) (at300.setV 15 0x01) (·.getV 15) = some 0x00#8 := by decide
theorem test_ld_i : after (.ldINnn 0xFFF) (at300.setI 0x1234) (·.i) = some 0x0FFF#16 := by decide
/-- Section 2.5: past `0xFFF`, no flag, and the low 12 bits address memory. -/
theorem test_add_i_vx : after (.addIVx 3) ((at300.setI 0x0FFF).setV 3 1) (fun t => (t.i, t.getV 15, t.ea 0)) = some (0x1000#16, 0x00#8, 0x000#12) := by decide
theorem test_add_i_vx_wraps : after (.addIVx 3) ((at300.setI 0xFFFF).setV 3 1) (·.i) = some 0x0000#16 := by decide
/-- S11 and section 2.5. -/
theorem test_ld_f_vx : after (.ldFVx 0) (at300.setV 0 0x0A) (·.i) = some 0x0032#16 ∧ after (.ldFVx 0) (at300.setV 0 0xFF) (·.i) = some 0x04FB#16 := by decide
theorem test_ld_b_vx : after (.ldBVx 2) ((at300.setV 2 0xFE).setI 0x0300) (fun t => (t.readByte 0x300, t.readByte 0x301, t.readByte 0x302)) = some (0x02#8, 0x05#8, 0x04#8) := by decide
theorem test_ld_mem_vx : after (.ldMemVx 1) ((regs 0 0x12 1 0x08).setI 0x0208) (fun t => (t.readByte 0x208, t.readByte 0x209, t.readByte 0x20A, t.i)) = some (0x12#8, 0x08#8, 0x00#8, 0x0208#16) := by decide
theorem test_ld_vx_mem : after (.ldVxMem 2) ((data [0x02, 0x05, 0x04, 0x99]).setV 3 0x77) (fun t => (t.getV 0, t.getV 1, t.getV 2, t.getV 3)) = some (0x02#8, 0x05#8, 0x04#8, 0x77#8) := by decide
/-- Section 2.5, last row: only the low 12 bits of `I` address memory. -/
theorem test_ld_vx_mem_low_bits : after (.ldVxMem 0) ((data [0x77]).setI 0x1300) (·.getV 0) = some 0x77#8 := by decide
/-- Section 2.6. -/
theorem test_drw_wraps : after (.drw 1 2 2) (((data [0x80, 0x80]).setV 1 0xFF).setV 2 0xFF) (fun t => (t.pixel (63, 31), t.pixel (63, 0), t.pixel (0, 0), t.getV 15)) = some (true, true, false, 0x00#8) := by decide
/-- Section 2.6: an on pixel goes off; the origin is read before VF is written. -/
theorem test_drw_collides : after (.drw 15 15 1) (((data [0x90]).setV 15 0).setFb (fbToggle fbClear (3, 0))) (fun t => (t.pixel (0, 0), t.pixel (3, 0), t.getV 15)) = some (true, false, 0x01#8) := by decide
/-- Section 2.7, the low nibble of V2 included (D12). -/
theorem test_skp : after (.skp 2) ((at300.setV 2 0x15).latch 0x0020 0 0) (·.pc) = some 0x0304#16 ∧ after (.skp 2) ((at300.setV 2 0x05).latch 0xFFDF 0 0) (·.pc) = some 0x0302#16 := by decide
theorem test_sknp : after (.sknp 2) ((at300.setV 2 0x05).latch 0x0020 0 0) (·.pc) = some 0x0302#16 ∧ after (.sknp 2) ((at300.setV 2 0x05).latch 0 0 0) (·.pc) = some 0x0304#16 := by decide
theorem test_ld_vx_dt : after (.ldVxDt 3) (at300.setDt 0x2A) (fun t => (t.getV 3, t.dt)) = some (0x2A#8, 0x2A#8) := by decide
theorem test_ld_vx_k : after (.ldVxK 3) (at300.latch 0x0080 0 0) (fun t => (t.mode, t.waitX, t.pc, t.getV 3)) = some (.awaitingKey, 3, 0x0300#16, 0x00#8) := by decide
theorem test_ld_dt_vx : after (.ldDtVx 1) (at300.setV 1 0x3C) (fun t => (t.dt, t.st)) = some (0x3C#8, 0x00#8) := by decide
theorem test_ld_st_vx : after (.ldStVx 2) (at300.setV 2 0x02) (fun t => (t.st, t.dt, t.soundOut)) = some (0x02#8, 0x00#8, true) := by decide

/-- A waiting state of section 2.7. -/
def waiting (x : RegIx) (key : Word) (pick : Nibble) : State := { at300.latch key 0 pick with mode := .awaitingKey, waitX := x }

theorem test_await_none : awaitStep (waiting 3 0 0) = waiting 3 0 0 := by decide
theorem test_await_key : ((awaitStep (waiting 15 0x8000 3)).getV 15, (awaitStep (waiting 15 0x8000 3)).pc, (awaitStep (waiting 15 0x8000 3)).mode) = (0x0F#8, 0x0302#16, .running) := by decide
/-- Either pressed key, as the draw says (D11). -/
theorem test_await_two_keys : ((awaitStep (waiting 3 0x0081 0)).getV 3, (awaitStep (waiting 3 0x0081 1)).getV 3) = (0x00#8, 0x07#8) := by decide
theorem test_tick : (((at300.setDt 2).tick.dt, (at300.setSt 1).tick.st, (at300.setDt 2).tick.st) : Byte × Byte × Byte) = (0x01#8, 0x00#8, 0x00#8) := by decide
/-- Section 2.7, decision D17. -/
theorem test_tick_halted : ((at300.setDt 5).raise .unusedSubOpcode 0 0).tick.dt = 0x05#8 := by decide
/-- Zero is what an unlisted address above the font reads as, so it is not listed. -/
theorem test_memory_form : ((at300.loadAt 0x300 [1, 2, 0, 3]).writeByte 0x301 0).mem = [(0x300, 1#8), (0x303, 3#8)] := by decide
theorem test_step_runs_placed_word : stepped (State.reset.withFetchWord 16 0x6A2C) (fun t => (t.getV 10, t.pc, t.draws)) = some (0x2C#8, 0x0202#16, 1) := by decide
/-- Section 2.8: an empty ROM. -/
theorem test_step_empty_rom : stepped State.reset (fun t => (t.halt, t.faultKindOut, t.faultPc, t.faultOp)) = some (true, 4, 0x0200#16, 0x0000#16) := by decide
/-- Section 2.8. -/
theorem test_step_out_of_bounds : stepped (State.reset.setPc 0x1002) (fun t => (t.faultKindOut, t.faultPc, t.faultOp)) = some (1, 0x1002#16, 0x0000#16) := by decide
theorem test_step_tick_first : stepped { (State.reset.setDt 4) with ticksDue := 2 } (fun t => (t.dt, t.ticksDue, t.pc)) = some (0x03#8, 1, 0x0200#16) := by decide

/-! ### Witnesses: the hypotheses of each statement are met by a concrete state and operands, every clause at a boundary -/

theorem test_witness_EncodeOfDecodeIsIdentity : decodeWord 0x8AB6#16 = .ok (.shrVx 10 11) := by decide

/-- The last address a fetch can use. -/
theorem test_witness_FetchIsBigEndian :
    (0xFFE#12).toNat = (State.reset.setPc 0xFFE).pc.toNat ∧ (0xFFF#12).toNat = (State.reset.setPc 0xFFE).pc.toNat + 1 := by decide

/-- The reset state with LD VA, 0x2C at `0x200`. -/
def withLoad : State := State.reset.loadAt 0x200 [0x6A#8, 0x2C#8]

theorem test_witness_StepRunsDecodedInstruction :
    withLoad.halt = false ∧ withLoad.ticksDue = 0 ∧ withLoad.mode = .running ∧ (0x200#12).toNat = withLoad.pc.toNat ∧
    (0x201#12).toNat = withLoad.pc.toNat + 1 ∧
    decode [withLoad.readByte 0x200, withLoad.readByte 0x201] = .ok (.ldVxNn 10 0x2C, []) := by decide

theorem test_witness_PlacedWordRunsNext : decodeTableWord 16 0xFF65 = some (.ldVxMem 15) := by decide

theorem test_witness_FetchOutOfBoundsFaults_running :
    (State.reset.setPc 0xFFF).halt = false ∧ (State.reset.setPc 0xFFF).ticksDue = 0 ∧
    0xFFE < (State.reset.setPc 0xFFF).pc.toNat ∧ (State.reset.setPc 0xFFF).mode = .running := by decide

theorem test_witness_FetchOutOfBoundsFaults_waiting :
    ((waiting 0 0 0).setPc 0xFFF).halt = false ∧ ((waiting 0 0 0).setPc 0xFFF).ticksDue = 0 ∧
    0xFFE < ((waiting 0 0 0).setPc 0xFFF).pc.toNat ∧ ((waiting 0 0 0).setPc 0xFFF).mode = .awaitingKey := by decide

theorem test_witness_IllegalWordFaults :
    State.reset.halt = false ∧ State.reset.ticksDue = 0 ∧ State.reset.mode = .running ∧
    State.reset.fetchWord = some 0x0000#16 ∧ legalWord 0x0000#16 = false := by decide

/-- A halted state: an empty program has faulted. -/
def halted : State := State.reset.raise .unusedSubOpcode 0x0200 0x0000

theorem test_witness_OnlyHaltedStatesHaveNoStep : halted.halt = true ∧ State.reset.halt = false := by decide

theorem test_witness_FaultsArePrecise :
    ∃ t, State.reset.halt = false ∧ step State.reset = .next t ∧ t.halt = true := ⟨_, rfl, rfl, rfl⟩

theorem test_witness_StaleInputsAreNotRead : State.reset.ticksDue = 0 := rfl

/-- Two ticks are due, the timers at 1 and 0. -/
def ticking : State := { (State.reset.setDt 1) with ticksDue := 2 }

theorem test_witness_TickLowersBothTimers : halted.halt = true ∧ ticking.halt = false ∧ ticking.ticksDue ≠ 0 := by decide

theorem test_witness_TicksCountDownToZero : ticking.halt = false := rfl

/-- LD DT, V1 at `0x200` with V1 not zero. -/
def loadingDelay : State := (State.reset.setV 1 0x3C).loadAt 0x200 [0xF1#8, 0x15#8]

theorem test_witness_DelayTimerRisesOnlyByItsWrite :
    ∃ t, step loadingDelay = .next t ∧ loadingDelay.dt.toNat < t.dt.toNat := ⟨_, rfl, by decide⟩

/-- A sprite byte with its leftmost bit set, at the origin. -/
def drawing : State := data [0x80]

theorem test_witness_DrawSprite_covers : drawing.spriteCovers 0 1 15 (0, 0) := ⟨0, 0, by decide⟩

theorem test_witness_DrawSprite_leaves : ¬ drawing.spriteCovers 0 1 0 (0, 0) := by
  rintro ⟨r, c, hr, -⟩
  simp at hr

theorem test_witness_DrawSprite_collides :
    ∃ p, (drawing.setFb (fbToggle fbClear (0, 0))).spriteCovers 0 1 1 p ∧
      (drawing.setFb (fbToggle fbClear (0, 0))).pixel p = true := ⟨(0, 0), ⟨0, 0, by decide⟩, by decide⟩

theorem test_witness_DrawSprite_clear : ¬ ∃ p, drawing.spriteCovers 0 1 15 p ∧ drawing.pixel p = true := by
  rintro ⟨p, -, hp⟩
  have : drawing.pixel p = fbPixel fbClear p := rfl
  rw [this, fbPixel_clear] at hp
  cases hp

theorem test_witness_DrawSprite_otherRegister : (14#4 : RegIx) ≠ 15#4 := by decide

theorem test_witness_DrawingTwiceCancels :
    (0#4 : RegIx) ≠ 15#4 ∧ (14#4 : RegIx) ≠ 15#4 ∧ (∀ p, drawing.pixel p = false) ∧ ∃ p, drawing.spriteCovers 0 14 1 p :=
  ⟨by decide, by decide, fun p => fbPixel_clear p, (0, 0), 0, 0, by decide⟩

theorem test_witness_ReturnPopsIntoPc :
    ({ State.reset with sp := 1 } : State).sp.val = (0 : Fin 16).val + 1 ∧
    ({ State.reset with sp := 16 } : State).sp.val = (15 : Fin 16).val + 1 ∧ State.reset.sp.val = 0 := by decide

theorem test_witness_CallPushesReturnAddress :
    State.reset.sp.val = (0 : Fin 16).val ∧ ({ State.reset with sp := 15 } : State).sp.val = (15 : Fin 16).val ∧
    (0 : Fin 16) ≠ 15 ∧ ({ State.reset with sp := 16 } : State).sp.val = 16 := by decide

theorem test_witness_CallThenReturnRestoresPc : ({ State.reset with sp := 15 } : State).sp.val < 16 := by decide

/-- The state a CALL to `0x200` answers. -/
def called (s : State) : State :=
  match exec (.call 0x200) s with
  | .next t => t
  | .fault _ | .refused _ => s

theorem test_witness_SeventeenthNestedCallFaults :
    (called^[0] State.reset).sp.val = 0 ∧
    ∀ k, exec (.call 0x200) (called^[k] State.reset) = .next (called^[k + 1] State.reset) := by
  refine ⟨rfl, fun k => ?_⟩
  rw [Function.iterate_succ_apply']
  generalize called^[k] State.reset = s
  obtain ⟨-, hp⟩ | ⟨h, hp⟩ := push_cases s (s.pc + 2) <;> simp only [called, exec, execCall, hp]

theorem test_witness_SelfJumpRepeatsTheState :
    (State.reset.loadAt 0x200 [0x12, 0x00]).atSelfJump ∧ (State.reset.loadAt 0x200 [0x12, 0x00]).halt = false ∧
    (State.reset.loadAt 0x200 [0x12, 0x00]).ticksDue = 0 := ⟨⟨rfl, by decide⟩, rfl, rfl⟩

theorem test_witness_SkipsAgainstImmediate :
    State.reset.getV 15 = 0x00#8 ∧ State.reset.getV 15 ≠ 0xFF#8 := by decide

theorem test_witness_SkipsOnRegisters :
    State.reset.getV 0 = State.reset.getV 15 ∧ (State.reset.setV 15 1).getV 0 ≠ (State.reset.setV 15 1).getV 15 ∧
    (0x1#4 : Nibble) ≠ 0 ∧ (0xF#4 : Nibble) ≠ 0 := by decide

/-- The other register of the frame clauses of LD, ADD, RND, OR, AND, XOR and the timer reads. -/
theorem test_witness_LoadImmediate_frame : (15#4 : RegIx) ≠ 0 := by decide

theorem test_witness_AddImmediateWraps_frame : (0#4 : RegIx) ≠ 15 := by decide

theorem test_witness_RandomByteIsMasked_frame : (1#4 : RegIx) ≠ 3 := by decide

theorem test_witness_MoveAndLogic_frame : (2#4 : RegIx) ≠ 1 := by decide

theorem test_witness_TimerAccesses_frame : (2#4 : RegIx) ≠ 3 ∧ (regs 2 1 3 0).getV 2 ≠ 0 := by decide

theorem test_witness_AddRegistersSetsCarry :
    (1#4 : RegIx) ≠ 15#4 ∧ 255 < ((regs 1 0xFF 2 0x01).getV 1).toNat + ((regs 1 0xFF 2 0x01).getV 2).toNat ∧
    ((regs 1 0xFE 2 0x01).getV 1).toNat + ((regs 1 0xFE 2 0x01).getV 2).toNat ≤ 255 ∧ (3#4 : RegIx) ≠ 1 := by decide

theorem test_witness_SubtractSetsNotBorrow :
    (1#4 : RegIx) ≠ 15#4 ∧ ((regs 1 7 2 7).getV 2).toNat ≤ ((regs 1 7 2 7).getV 1).toNat ∧
    ((regs 1 0 2 1).getV 1).toNat < ((regs 1 0 2 1).getV 2).toNat ∧ (3#4 : RegIx) ≠ 1 := by decide

theorem test_witness_ShiftsMoveOneBitIntoFlag : (1#4 : RegIx) ≠ 15#4 ∧ (0#4 : RegIx) ≠ 1 := by decide

theorem test_witness_StoreDecimalDigits_frame :
    (0x303#12 : Addr) ≠ drawing.ea 0 ∧ (0x303#12 : Addr) ≠ drawing.ea 1 ∧ (0x303#12 : Addr) ≠ drawing.ea 2 := by decide

theorem test_witness_StoreRegisterRange :
    (15#4 : RegIx).toNat ≤ (15#4 : RegIx).toNat ∧ ∀ k, k ≤ (0#4 : RegIx).toNat → (0x301#12 : Addr) ≠ drawing.ea k := by
  refine ⟨by decide, fun k hk => ?_⟩
  obtain rfl : k = 0 := by simpa using hk
  decide

theorem test_witness_LoadRegisterRange :
    (15#4 : RegIx).toNat ≤ (15#4 : RegIx).toNat ∧ (14#4 : RegIx).toNat < (15#4 : RegIx).toNat := by decide

theorem test_witness_MemoryReadsLastWrite : (0x000#12 : Addr) ≠ 0xFFF#12 := by decide

theorem test_witness_StoredCodeIsFetched :
    1 ≤ (1#4 : RegIx).toNat ∧ ((at300.setI 0xFFE).ea 1).toNat = ((at300.setI 0xFFE).ea 0).toNat + 1 := by decide

/-- The conventional table of spec/20_memory.md R55 stored at `0x000`, and the digit F. -/
def withFont : State := (State.reset.loadAt 0 Config.conventionalFont).setV 0 0x0F

theorem test_witness_GlyphLookupFindsGlyph :
    Config.conventionalFont.length = 80 ∧
    (∀ k (hk : k < Config.conventionalFont.length), withFont.readByte (BitVec.ofNat 12 k) = Config.conventionalFont[k]) ∧
    (withFont.getV 0).toNat ≤ 15 := by
  refine ⟨by decide, fun k hk => ?_, ?_⟩
  · have := readByte_loadAt State.reset 0 Config.conventionalFont (by decide) k hk
    rwa [Nat.zero_add] at this
  · have : withFont.getV 0 = 0x0F#8 := by simp [withFont]
    rw [this]
    decide

theorem test_witness_KeySkips :
    ((at300.setV 2 0x1F).latch 0x8000 0 0).key.getLsbD (((at300.setV 2 0x1F).latch 0x8000 0 0).getV 2).toNat = false ∧
    ((at300.setV 2 0x1F).latch 0x8000 0 0).key.getLsbD ((((at300.setV 2 0x1F).latch 0x8000 0 0).getV 2).toNat % 16) = true ∧
    (at300.latch 0x8000 0 0).key.getLsbD (((at300.latch 0x8000 0 0).getV 2).toNat % 16) = false := by decide

theorem test_witness_WaitingStep :
    (waiting 15 0 0).mode = .awaitingKey ∧ (waiting 15 0 0).halt = false ∧ (waiting 15 0 0).ticksDue = 0 ∧
    (waiting 15 0 0).key = 0 ∧ (waiting 15 0x8000 0).mode = .awaitingKey ∧ (waiting 15 0x8000 0).key ≠ 0 ∧
    (0#4 : RegIx) ≠ (waiting 15 0x8000 0).waitX := by decide

theorem test_witness_EveryPressedKeyMayBePicked : (at300.latch 0x8001 0 0).key.getLsbD (15#4 : Nibble).toNat = true := by decide

theorem test_witness_WaitEndsOnlyByKey :
    (waiting 3 0x0080 0).mode = .awaitingKey ∧
    (∃ t, cycle (waiting 3 0x0080 0) = .next t ∧ t.mode = .running) ∧ ∃ t, step (waiting 3 0x0080 0) = .next t :=
  ⟨rfl, ⟨_, rfl, by decide⟩, _, rfl⟩

theorem test_witness_InstructionsWriteOnlyTheirParts :
    (∃ t, exec (.addVxVy 1 2) at300 = .next t) ∧ writesReg 14 (.addVxVy 1 2) = false ∧
    Part.memory ∉ partsWritten (.addVxVy 1 2) := ⟨⟨_, rfl⟩, rfl, by decide⟩

theorem test_witness_FlagsAreZeroOrOne : writesFlag (.shlVx 15 0) = true ∧ ∃ t, exec (.shlVx 15 0) at300 = .next t :=
  ⟨rfl, _, rfl⟩

theorem test_witness_MemoryStaysCanonical : drawing.memoryCanonical ∧ ∃ t, step (drawing.loadAt 0x300 [0xF0, 0x33]) = .next t :=
  ⟨by simp only [State.memoryCanonical]; decide, _, rfl⟩

theorem test_witness_AddressesStayBounded : State.reset.addressesBounded ∧ ∃ t, step State.reset = .next t :=
  ⟨⟨by decide, by decide, by decide⟩, _, rfl⟩

theorem test_witness_FaultRecordStaysTruthful : State.reset.recordTruthful ∧ ∃ t, step State.reset = .next t :=
  ⟨⟨fun _ => ⟨rfl, rfl, rfl⟩, fun h => by cases h⟩, _, rfl⟩

theorem test_witness_ResetValues :
    (79#12 : Addr).toNat < 80 ∧ 80 ≤ (80#12 : Addr).toNat ∧ 80 ≤ (0xFFF#12 : Addr).toNat := by decide

theorem test_witness_LaunchLoadsTheRom :
    (List.replicate 3584 0x00#8).length ≤ 3584 ∧ 3584 < (List.replicate 3585 0x00#8).length ∧
    (0x1FF#12 : Addr).toNat < 0x200 ∧ 80 ≤ (0x1FF#12 : Addr).toNat ∧
    0x200 + [0x12#8, 0x00#8].length ≤ (0x202#12 : Addr).toNat := by
  simp only [List.length_replicate]
  decide

end Sys2Proof.Tests.Slice0
end

section
/-! SUPPORT. The step by the case that applies, the frames of sampling and of a stored word, and the settled statements of
spec/00_scope.md section 7. -/

namespace Sys2Proof.Machine

/-! ### The step and the cycle, one equation per case (spec/00_scope.md R11) -/

theorem step_of_halt {s : State} (h : s.halt = true) : step s = .fault .halted := if_pos h

theorem step_of_ticksDue {s : State} (hh : s.halt = false) (ht : s.ticksDue ≠ 0) : step s = .next s.tickStep := by
  simp [step, hh, ht]

theorem step_of_no_ticksDue {s : State} (hh : s.halt = false) (ht : s.ticksDue = 0) : step s = cycle s.sample := by
  simp [step, hh, ht]

theorem cycle_of_awaitingKey {s : State} (hm : s.mode = .awaitingKey) : cycle s = .next (awaitStep s) := by
  simp only [cycle, hm]

theorem cycle_of_no_fetch {s : State} (hm : s.mode = .running) (hf : s.fetchWord = none) :
    cycle s = .next (s.raise .pcOutOfBounds s.pc 0x0000#16) := by
  simp only [cycle, hm, hf]

theorem cycle_of_fetch {s : State} {op : Word} (hm : s.mode = .running) (hf : s.fetchWord = some op) :
    cycle s = runWord op s := by
  simp only [cycle, hm, hf]

theorem runWord_of_decode {op : Word} {i : Instr} (s : State) (hd : decodeWord op = .ok i) : runWord op s = exec i s := by
  simp only [runWord, hd]

theorem runWord_of_illegal {op : Word} {e : DecodeError} (s : State) (hd : decodeWord op = .error e) :
    runWord op s = .next (s.raise (faultOfDecodeError e) s.pc op) := by
  simp only [runWord, hd]

/-- A running core with no `Tick` due executes the instruction its fetched word decodes to, on the sampled state. -/
theorem step_eq_exec {s : State} {op : Word} {i : Instr} (hh : s.halt = false) (ht : s.ticksDue = 0)
    (hm : s.mode = .running) (hf : s.fetchWord = some op) (hd : decodeWord op = .ok i) : step s = exec i s.sample :=
  calc step s = cycle s.sample := step_of_no_ticksDue hh ht
    _ = runWord op s.sample := cycle_of_fetch hm hf
    _ = exec i s.sample := runWord_of_decode _ hd

/-! ### Words read from bytes -/

theorem decode_pair_eq_ok {hi lo : Byte} {i : Instr} (h : decode [hi, lo] = .ok (i, [])) :
    decodeWord (wordOfBytes hi lo) = .ok i := by
  cases hd : decodeWord (wordOfBytes hi lo) <;> simp_all [decode]

theorem decodeTableWord_eq_some {nbits w : Nat} {i : Instr} (h : decodeTableWord nbits w = some i) :
    decodeWord (tableWord nbits w) = .ok i := by
  rw [decodeTableWord, ← List.append_nil (bytesOfWord _), decode_bytesOfWord] at h
  cases hd : decodeWord (tableWord nbits w) <;> simp_all [Except.map]

/-- The fetch reads the bytes at the two addresses whose numbers are `pc` and `pc + 1` (R42). -/
theorem fetchWord_eq_wordOfBytes {s : State} {a b : Addr} (ha : a.toNat = s.pc.toNat) (hb : b.toNat = s.pc.toNat + 1) :
    s.fetchWord = some (wordOfBytes (s.readByte a) (s.readByte b)) := by
  have hlt := b.isLt
  have hpc : s.pc ≤ 0xFFE#16 := by rw [BitVec.le_def]; simp; omega
  have ea : s.pc.setWidth 12 = a := BitVec.eq_of_toNat_eq (by simp; omega)
  have eb : (s.pc + 1).setWidth 12 = b := BitVec.eq_of_toNat_eq (by simp; omega)
  rw [State.fetchWord, if_pos hpc, ea, eb]

/-- `1nnn` is JP (R64, R81). -/
theorem decodeWord_jp (nnn : Addr) : decodeWord (0x1#4 ++ nnn) = .ok (.jp nnn) := by
  change decodeWord (wordNNN 0x1#4 nnn) = _
  simp [decodeWord]

/-! ### Frames -/

/-- Sampling writes the model's own input fields only. -/
theorem sample_frame (s : State) : onlyChanges [.inputs] s s.sample := by
  intro p hp
  cases p <;> simp_all [Part.same]

theorem writeByte_frame (s : State) (a : Addr) (b : Byte) : onlyChanges [.memory] s (s.writeByte a b) := by
  intro p hp
  cases p <;> simp_all [Part.same]

theorem storeWordAtPc_frame (s : State) (op : Word) : onlyChanges [.memory] s (s.storeWordAtPc op) :=
  onlyChanges_trans (writeByte_frame s _ _) (writeByte_frame _ _ _)

theorem setPc_self (s : State) : s.setPc s.pc = s := rfl

/-! ### The state made ready to fetch (log 5) -/

/-- Reset is ready to fetch as it stands. -/
theorem readyToFetch_reset : State.reset.readyToFetch = State.reset := rfl

theorem readyToFetch_pc_le (s : State) : s.readyToFetch.pc ≤ 0xFFE#16 := by
  change (if s.pc ≤ 0xFFE#16 then s.pc else Config.progBase) ≤ 0xFFE#16
  split
  · assumption
  · decide

theorem fetchWord_withFetchWord (s : State) (nbits w : Nat) :
    (s.withFetchWord nbits w).fetchWord = some (tableWord nbits w) :=
  fetchWord_storeWordAtPc _ (readyToFetch_pc_le s)

/-! ### Every instruction, word and cycle answers a next state (spec/00_scope.md R12) -/

theorem execRet_of_empty {s : State} (hp : s.pop = none) :
    execRet s = .next (s.raise .stackUnderflow s.pc (encode .ret)) := by
  simp only [execRet, hp]

theorem execRet_of_pop {s s' : State} {target : Word} (hp : s.pop = some (target, s')) :
    execRet s = .next (s'.setPc target) := by
  simp only [execRet, hp]

theorem execCall_of_full {s : State} (nnn : Addr) (hp : s.push (s.pc + 2) = none) :
    execCall nnn s = .next (s.raise .stackOverflow s.pc (encode (.call nnn))) := by
  simp only [execCall, hp]

theorem execCall_of_push {s s' : State} (nnn : Addr) (hp : s.push (s.pc + 2) = some s') :
    execCall nnn s = .next (s'.setPc (nnn.setWidth 16)) := by
  simp only [execCall, hp]

theorem execRet_completes (s : State) : ∃ t, execRet s = .next t := by
  cases hp : s.pop with
  | none => exact ⟨_, execRet_of_empty hp⟩
  | some popped => exact ⟨_, execRet_of_pop hp⟩

theorem execCall_completes (nnn : Addr) (s : State) : ∃ t, execCall nnn s = .next t := by
  cases hp : s.push (s.pc + 2) with
  | none => exact ⟨_, execCall_of_full nnn hp⟩
  | some pushed => exact ⟨_, execCall_of_push nnn hp⟩

/-- Only RET and CALL branch; every other meaning is one next state. -/
theorem exec_completes (i : Instr) (s : State) : ∃ t, exec i s = .next t := by
  cases i with
  | ret => exact execRet_completes s
  | call nnn => exact execCall_completes nnn s
  | _ => exact ⟨_, rfl⟩

theorem runWord_completes (op : Word) (s : State) : ∃ t, runWord op s = .next t := by
  cases hd : decodeWord op with
  | ok i => rw [runWord_of_decode s hd]; exact exec_completes i s
  | error e => exact ⟨_, runWord_of_illegal s hd⟩

theorem cycle_completes (s : State) : ∃ t, cycle s = .next t := by
  cases hm : s.mode with
  | awaitingKey => exact ⟨_, cycle_of_awaitingKey hm⟩
  | running =>
    cases hf : s.fetchWord with
    | none => exact ⟨_, cycle_of_no_fetch hm hf⟩
    | some op => rw [cycle_of_fetch hm hf]; exact runWord_completes op s

theorem step_completes {s : State} (hh : s.halt = false) : ∃ t, step s = .next t := by
  by_cases ht : s.ticksDue = 0
  · rw [step_of_no_ticksDue hh ht]; exact cycle_completes _
  · exact ⟨_, step_of_ticksDue hh ht⟩

theorem tick_of_halt {s : State} (h : s.halt = true) : s.tick = s := if_pos h

/-! ### A jump to itself (spec/00_scope.md R13) -/

/-- Where a fetch finds a word, `pc` loses nothing as a 12-bit jump target. -/
theorem setWidth_pc_of_fetch {s : State} {op : Word} (hf : s.fetchWord = some op) :
    (s.pc.setWidth 12).setWidth 16 = s.pc := by
  have hpc : s.pc.toNat ≤ 0xFFE := (fetchWord_isSome_iff s).1 (by simp [hf])
  exact BitVec.eq_of_toNat_eq (by simp; omega)

/-- At a jump to itself the step only samples its inputs. -/
theorem step_of_atSelfJump {s : State} (hj : s.atSelfJump) (hh : s.halt = false) (ht : s.ticksDue = 0) :
    step s = .next s.sample := by
  obtain ⟨hm, hf⟩ := hj
  calc step s = exec (.jp (s.pc.setWidth 12)) s.sample := step_eq_exec hh ht hm hf (decodeWord_jp _)
    _ = .next (s.sample.setPc ((s.pc.setWidth 12).setWidth 16)) := rfl
    _ = .next s.sample := by rw [setWidth_pc_of_fetch hf, ← sample_pc, setPc_self]

end Sys2Proof.Machine

/-! ### The obligations -/

namespace Sys2Proof.Proofs.Scope

open Sys2Proof.Machine

/-- Settles O7: the placed word is the one fetched, and reset is ready to fetch as it stands, so only the store changes it. -/
theorem placedWordRunsNext : Obligations.PlacedWordRunsNext := by
  refine ⟨fun s w i h => ?_, fun w => ?_⟩
  · exact step_eq_exec rfl rfl rfl (fetchWord_withFetchWord s 16 w) (decodeTableWord_eq_some h)
  · rw [State.withFetchWord, readyToFetch_reset]
    exact storeWordAtPc_frame _ _

/-- Settles O11: every case of a step but the halted one answers a next state. -/
theorem onlyHaltedStatesHaveNoStep : Obligations.OnlyHaltedStatesHaveNoStep :=
  fun s => ⟨fun h => ⟨step_of_halt h, tick_of_halt h, hostReset_eq s⟩, step_completes⟩

/-- Settles O26: the jump writes `pc` with its own value, so the next state is the sampled one. -/
theorem selfJumpRepeatsTheState : Obligations.SelfJumpRepeatsTheState :=
  fun s hj hh ht => ⟨s.sample, step_of_atSelfJump hj hh ht, sample_frame s⟩

/-- Settles O52, by the instruction: a full or an empty call stack answers the fault entry. -/
theorem everyInstructionCompletes : Obligations.EveryInstructionCompletes := exec_completes

/-- Settles O6: the two bytes at `pc` are the fetched word, and sampling writes only the input fields. -/
theorem stepRunsDecodedInstruction : Obligations.StepRunsDecodedInstruction := by
  intro s a b i hh ht hm ha hb hd
  have hstep : step s = exec i s.sample :=
    step_eq_exec hh ht hm (fetchWord_eq_wordOfBytes ha hb) (decode_pair_eq_ok hd)
  exact ⟨hstep, sample_frame s, sample_draws s, sample_key s, sample_rnd s, sample_pick s, sample_ticksDue s⟩

end Sys2Proof.Proofs.Scope
end

section
/-! SUPPORT. The frames of the state's operations and of every instruction, the successors of `pc`, the bounds a step keeps, and the
settled statements of spec/10_state.md. -/

namespace Sys2Proof.Machine

/-! ### Frames in sequence -/

theorem onlyChanges_mono {ps qs : List Part} {s t : State} (hsub : ps ⊆ qs) (h : onlyChanges ps s t) : onlyChanges qs s t :=
  fun p hp => h p fun hmem => hp (hsub hmem)

/-- One change after another writes the parts of both. -/
theorem onlyChanges_append {ps qs : List Part} {s t u : State} (h : onlyChanges ps s t) (h' : onlyChanges qs t u) :
    onlyChanges (ps ++ qs) s u :=
  onlyChanges_trans (onlyChanges_mono (List.subset_append_left ..) h) (onlyChanges_mono (List.subset_append_right ..) h')

/-! ### The frame of each operation (spec/10_state.md R20 to R32) -/

theorem setV_frame (s : State) (x : RegIx) (b : Byte) : onlyChanges [.regs] s (s.setV x b) := by
  intro p hp
  cases p <;> simp_all [Part.same]

theorem setI_frame (s : State) (w : Word) : onlyChanges [.index] s (s.setI w) := by
  intro p hp
  cases p <;> simp_all [Part.same]

theorem setPc_frame (s : State) (w : Word) : onlyChanges [.pc] s (s.setPc w) := by
  intro p hp
  cases p <;> simp_all [Part.same]

theorem setDt_frame (s : State) (b : Byte) : onlyChanges [.delay] s (s.setDt b) := by
  intro p hp
  cases p <;> simp_all [Part.same]

theorem setSt_frame (s : State) (b : Byte) : onlyChanges [.sound] s (s.setSt b) := by
  intro p hp
  cases p <;> simp_all [Part.same]

theorem setFb_frame (s : State) (f : Framebuffer) : onlyChanges [.screen] s (s.setFb f) := by
  intro p hp
  cases p <;> simp_all [Part.same]

theorem raise_frame (s : State) (q : FaultKind) (w u : Word) : onlyChanges [.fault] s (s.raise q w u) := by
  intro p hp
  cases p <;> simp_all [Part.same]

theorem setResultFlag_frame (s : State) (x : RegIx) (r : Byte) (c : Bool) : onlyChanges [.regs] s (s.setResultFlag x r c) :=
  onlyChanges_trans (setV_frame s x r) (setV_frame _ vf (flagByte c))

theorem tickStep_frame (s : State) : onlyChanges [.delay, .sound, .inputs] s s.tickStep := by
  intro p hp
  by_cases hh : s.halt <;>
    cases p <;> simp_all [State.tickStep, State.tick, Part.same, State.getV, State.stkAt, State.pixel, State.readByte]

theorem push_frame {s s' : State} {w : Word} (h : s.push w = some s') : onlyChanges [.stack] s s' := by
  obtain ⟨-, hnone⟩ | ⟨_, hsome⟩ := push_cases s w
  · cases hnone.symm.trans h
  · cases hsome.symm.trans h
    intro p hp
    cases p <;> simp_all [Part.same, State.getV, State.pixel, State.readByte]

theorem pop_frame {s s' : State} {target : Word} (h : s.pop = some (target, s')) : onlyChanges [.stack] s s' := by
  obtain ⟨-, hnone⟩ | ⟨_, -, hsome⟩ := pop_cases s
  · cases hnone.symm.trans h
  · cases hsome.symm.trans h
    intro p hp
    cases p <;> simp_all [Part.same, State.getV, State.pixel, State.readByte]

/-! ### The frame of each instruction -/

theorem execRet_frame {s t : State} (h : execRet s = .next t) : onlyChanges [.stack, .pc, .fault] s t := by
  cases hp : s.pop with
  | none =>
    cases (execRet_of_empty hp).symm.trans h
    exact onlyChanges_mono (by simp) (raise_frame s _ _ _)
  | some popped =>
    cases (execRet_of_pop hp).symm.trans h
    exact onlyChanges_mono (by simp) (onlyChanges_append (pop_frame hp) (setPc_frame _ _))

theorem execCall_frame {nnn : Addr} {s t : State} (h : execCall nnn s = .next t) : onlyChanges [.stack, .pc, .fault] s t := by
  cases hp : s.push (s.pc + 2) with
  | none =>
    cases (execCall_of_full nnn hp).symm.trans h
    exact onlyChanges_mono (by simp) (raise_frame s _ _ _)
  | some pushed =>
    cases (execCall_of_push nnn hp).symm.trans h
    exact onlyChanges_mono (by simp) (onlyChanges_append (push_frame hp) (setPc_frame _ _))

theorem execLdVxK_frame {x : RegIx} {s t : State} (h : execLdVxK x s = .next t) : onlyChanges [.wait] s t := by
  cases h
  intro p hp
  cases p <;> simp_all [Part.same, State.getV, State.stkAt, State.pixel, State.readByte]

/-- An instruction is its one or two writes and then its write of `pc`, so its frame is put together from theirs. -/
theorem exec_frame {i : Instr} {s t : State} (h : exec i s = .next t) : onlyChanges (partsWritten i) s t := by
  cases i with
  | ret => exact execRet_frame h
  | call nnn => exact execCall_frame h
  | ldVxK x => exact execLdVxK_frame h
  | cls => cases h; exact onlyChanges_append (setFb_frame s _) (setPc_frame _ _)
  | drw x y n =>
    cases h
    exact onlyChanges_append (setFb_frame s _) (onlyChanges_append (setV_frame _ _ _) (setPc_frame _ _))
  | jp _ | jpV0 _ | seVxNn _ _ | sneVxNn _ _ | seVxVy _ _ | sneVxVy _ _ | skp _ | sknp _ => cases h; exact setPc_frame s _
  | ldVxNn _ _ | addVxNn _ _ | rndVxNn _ _ | ldVxDt _ | ldVxVy _ _ | orVxVy _ _ | andVxVy _ _ | xorVxVy _ _ =>
    cases h; exact onlyChanges_append (setV_frame s _ _) (setPc_frame _ _)
  | addVxVy _ _ | subVxVy _ _ | shrVx _ _ | subnVxVy _ _ | shlVx _ _ =>
    cases h; exact onlyChanges_append (setResultFlag_frame s _ _ _) (setPc_frame _ _)
  | ldVxMem _ => cases h; exact onlyChanges_append (setRegs_frame s _ _) (setPc_frame _ _)
  | ldINnn _ | addIVx _ | ldFVx _ => cases h; exact onlyChanges_append (setI_frame s _) (setPc_frame _ _)
  | ldDtVx _ => cases h; exact onlyChanges_append (setDt_frame s _) (setPc_frame _ _)
  | ldStVx _ => cases h; exact onlyChanges_append (setSt_frame s _) (setPc_frame _ _)
  | ldBVx _ | ldMemVx _ => cases h; exact onlyChanges_append (storeBytes_frame s _ _) (setPc_frame _ _)

/-! ### Which registers an instruction leaves alone (R20, R21) -/

theorem getV_setV_of_ne (s : State) {x z : RegIx} (b : Byte) (hz : z ≠ x) : (s.setV x b).getV z = s.getV z := by
  simp [hz]

theorem getV_setResultFlag_of_ne (s : State) {x z : RegIx} (r : Byte) (c : Bool) (hz : z ≠ x) (hf : z ≠ vf) :
    (s.setResultFlag x r c).getV z = s.getV z := by
  simp [hz, hf]

/-- `Fx65` writes `V[0]` to `V[x]` only (R125). -/
theorem getV_setRegs_loadBytes_of_lt (s : State) {x z : RegIx} (hz : x.toNat < z.toNat) :
    (s.setRegs 0 (s.loadBytes (x.toNat + 1))).getV z = s.getV z := by
  rw [getV_setRegs _ _ _ (by have := x.isLt; simp; omega), dif_neg (by simp; omega)]

theorem exec_getV_of_not_writesReg {i : Instr} {s t : State} (h : exec i s = .next t) {z : RegIx}
    (hz : writesReg z i = false) : t.getV z = s.getV z := by
  cases i with
  | ldVxNn _ _ | addVxNn _ _ | rndVxNn _ _ | ldVxDt _ | ldVxVy _ _ | orVxVy _ _ | andVxVy _ _ | xorVxVy _ _ =>
    cases h; exact getV_setV_of_ne s _ (ne_of_beq_false hz)
  | addVxVy _ _ | subVxVy _ _ | shrVx _ _ | subnVxVy _ _ | shlVx _ _ =>
    cases h
    obtain ⟨hx, hf⟩ := Bool.or_eq_false_iff.1 hz
    exact getV_setResultFlag_of_ne s _ _ (ne_of_beq_false hx) (ne_of_beq_false hf)
  | drw _ _ _ => cases h; exact getV_setV_of_ne _ _ (ne_of_beq_false hz)
  | ldVxMem x => cases h; exact getV_setRegs_loadBytes_of_lt s (not_le.1 (of_decide_eq_false hz))
  | _ => exact exec_frame h .regs (by simp [partsWritten]) z

/-! ### The flag (R21, R119) -/

theorem flagByte_eq_zero_or_one (c : Bool) : flagByte c = 0 ∨ flagByte c = 1 := by
  cases c
  · exact .inl rfl
  · exact .inr rfl

/-- The flag is written last, so it stands in VF even where `x` is VF (decision D7). -/
theorem getV_vf_setResultFlag (s : State) (x : RegIx) (r : Byte) (c : Bool) : (s.setResultFlag x r c).getV vf = flagByte c := by
  simp

theorem exec_getV_vf_of_writesFlag {i : Instr} {s t : State} (hi : writesFlag i = true) (h : exec i s = .next t) :
    ∃ c, t.getV vf = flagByte c := by
  cases i with
  | addVxVy _ _ | subVxVy _ _ | shrVx _ _ | subnVxVy _ _ | shlVx _ _ =>
    cases h; exact ⟨_, getV_vf_setResultFlag s _ _ _⟩
  | drw _ _ _ => cases h; exact ⟨_, (getV_setV _ vf vf _).trans (if_pos rfl)⟩
  | _ => cases hi

/-! ### Sampling forgets the inputs of earlier steps (R29, R34) -/

theorem sample_latch (s : State) (key : Word) (rnd : Byte) (pick : Nibble) : (s.latch key rnd pick).sample = s.sample := rfl

/-! ### The successors of `pc` (R23 (b)) -/

/-- The values an instruction at `s` may leave in `pc`. -/
inductive NextPc (s : State) : Word → Prop where
  | stays : NextPc s s.pc                                                            -- `Fx0A`, a fault entry
  | sequential : NextPc s (s.pc + 2)
  | skips : NextPc s (s.pc + 4)
  | jumps (nnn : Addr) : NextPc s (nnn.setWidth 16)                                  -- `1nnn`, `2nnn`
  | jumpsIndexed (nnn : Addr) : NextPc s (nnn.setWidth 16 + (s.getV 0).setWidth 16)  -- `Bnnn`
  | returns (k : Fin 16) : NextPc s (s.stkAt k)                                      -- `00EE`

theorem nextPc_skipIf (s : State) (c : Bool) : NextPc s (s.skipIf c).pc := by
  cases c
  · exact .sequential
  · exact .skips

theorem nextPc_advance {s u : State} (hu : u.pc = s.pc) : NextPc s u.advance.pc := by
  rw [advance_eq, setPc_pc, hu]
  exact .sequential

theorem nextPc_execRet {s t : State} (h : execRet s = .next t) : NextPc s t.pc := by
  obtain ⟨-, hp⟩ | ⟨_, -, hp⟩ := pop_cases s
  · cases (execRet_of_empty hp).symm.trans h
    exact .stays
  · cases (execRet_of_pop hp).symm.trans h
    exact .returns _

theorem nextPc_execCall {nnn : Addr} {s t : State} (h : execCall nnn s = .next t) : NextPc s t.pc := by
  cases hp : s.push (s.pc + 2) with
  | none => cases (execCall_of_full nnn hp).symm.trans h; exact .stays
  | some pushed => cases (execCall_of_push nnn hp).symm.trans h; exact .jumps nnn

theorem exec_nextPc {i : Instr} {s t : State} (h : exec i s = .next t) : NextPc s t.pc := by
  cases i with
  | ret => exact nextPc_execRet h
  | call nnn => exact nextPc_execCall h
  | jp nnn => cases h; exact .jumps nnn
  | jpV0 nnn => cases h; exact .jumpsIndexed nnn
  | seVxNn _ _ | sneVxNn _ _ | seVxVy _ _ | sneVxVy _ _ | skp _ | sknp _ => cases h; exact nextPc_skipIf s _
  | ldVxK _ => cases h; exact .stays
  | ldBVx _ | ldMemVx _ => cases h; exact nextPc_advance (storeBytes_frame s _ _ .pc (by simp))
  | ldVxMem _ => cases h; exact nextPc_advance (setRegs_frame s _ _ .pc (by simp))
  | _ => cases h; exact nextPc_advance rfl

/-! ### The bounds of `pc` and of the saved addresses (R23 (c)) -/

theorem pc_add_two_toNat_le {w : Word} (h : w.toNat ≤ 0xFFE) : (w + 2).toNat ≤ 0x1000 := by
  bv_omega

theorem NextPc.toNat_le {s : State} (hpc : s.pc.toNat ≤ 0xFFE) (hstk : ∀ k, (s.stkAt k).toNat ≤ 0x1000) {w : Word}
    (h : NextPc s w) : w.toNat ≤ 0x10FE := by
  cases h with
  | stays => omega
  | sequential => exact (pc_add_two_toNat_le hpc).trans (by decide)
  | skips => bv_omega
  | jumps nnn => bv_omega
  | jumpsIndexed nnn => bv_omega
  | returns k => exact (hstk k).trans (by decide)

/-- A push writes one entry: the pushed value, every other entry as before (R24). -/
theorem stkAt_push {s s' : State} {w : Word} (h : s.push w = some s') (k : Fin 16) :
    s'.stkAt k = if s.sp.val = k.val then w else s.stkAt k := by
  obtain ⟨-, hnone⟩ | ⟨_, hsome⟩ := push_cases s w
  · cases hnone.symm.trans h
  · cases hsome.symm.trans h
    exact Vector.getElem_set ‹_› _

theorem execCall_stkAt_toNat_le {nnn : Addr} {s t : State} (hpc : s.pc.toNat ≤ 0xFFE)
    (hstk : ∀ k, (s.stkAt k).toNat ≤ 0x1000) (h : execCall nnn s = .next t) (k : Fin 16) : (t.stkAt k).toNat ≤ 0x1000 := by
  cases hp : s.push (s.pc + 2) with
  | none => cases (execCall_of_full nnn hp).symm.trans h; exact hstk k
  | some pushed =>
    cases (execCall_of_push nnn hp).symm.trans h
    rw [setPc_stkAt, stkAt_push hp]
    split
    · exact pc_add_two_toNat_le hpc
    · exact hstk k

/-- CALL alone writes an entry; a RET only lowers the depth. -/
theorem execRet_stkAt {s t : State} (h : execRet s = .next t) (k : Fin 16) : t.stkAt k = s.stkAt k := by
  obtain ⟨-, hp⟩ | ⟨_, -, hp⟩ := pop_cases s
  · cases (execRet_of_empty hp).symm.trans h; rfl
  · cases (execRet_of_pop hp).symm.trans h; rfl

theorem exec_stkAt_toNat_le {i : Instr} {s t : State} (hpc : s.pc.toNat ≤ 0xFFE)
    (hstk : ∀ k, (s.stkAt k).toNat ≤ 0x1000) (h : exec i s = .next t) (k : Fin 16) : (t.stkAt k).toNat ≤ 0x1000 := by
  cases i with
  | call nnn => exact execCall_stkAt_toNat_le hpc hstk h k
  | ret => rw [execRet_stkAt h]; exact hstk k
  | _ =>
    obtain ⟨-, hsame⟩ := exec_frame h .stack (by simp [partsWritten])
    rw [hsame]
    exact hstk k

/-- `Fx0A` alone starts a wait, and it keeps `pc` (R143). -/
theorem exec_starts_wait {i : Instr} {s t : State} (hm : s.mode = .running) (h : exec i s = .next t)
    (ht : t.mode = .awaitingKey) : t.pc = s.pc := by
  cases i with
  | ldVxK x => cases h; rfl
  | _ =>
    obtain ⟨hsame, -⟩ := exec_frame h .wait (by simp [partsWritten])
    rw [hsame, hm] at ht
    cases ht

/-! ### Every step keeps the bounds -/

/-- A change of other parts keeps the bounds. -/
theorem addressesBounded_of_frame {ps : List Part} {s t : State} (hs : s.addressesBounded) (h : onlyChanges ps s t)
    (hpc : .pc ∉ ps) (hstk : .stack ∉ ps) (hwait : .wait ∉ ps) : t.addressesBounded := by
  have epc : t.pc = s.pc := h .pc hpc
  obtain ⟨-, estk⟩ := h .stack hstk
  obtain ⟨emode, -⟩ := h .wait hwait
  simpa only [State.addressesBounded, epc, estk, emode] using hs

theorem sample_addressesBounded {s : State} (hs : s.addressesBounded) : s.sample.addressesBounded :=
  addressesBounded_of_frame hs (sample_frame s) (by decide) (by decide) (by decide)

theorem tickStep_addressesBounded {s : State} (hs : s.addressesBounded) : s.tickStep.addressesBounded :=
  addressesBounded_of_frame hs (tickStep_frame s) (by decide) (by decide) (by decide)

theorem raise_addressesBounded {s : State} (hs : s.addressesBounded) (q : FaultKind) (w u : Word) :
    (s.raise q w u).addressesBounded :=
  addressesBounded_of_frame hs (raise_frame s q w u) (by decide) (by decide) (by decide)

/-- A wait stands at a fetched `pc`, so the address after it is at most `0x1000`. -/
theorem awaitStep_addressesBounded {s : State} (hs : s.addressesBounded) (hm : s.mode = .awaitingKey) :
    (awaitStep s).addressesBounded := by
  unfold awaitStep
  split
  · exact hs
  · obtain ⟨-, hstk, hwait⟩ := hs
    exact ⟨(pc_add_two_toNat_le (hwait hm)).trans (by decide), hstk, nofun⟩

theorem exec_addressesBounded {i : Instr} {s t : State} (hs : s.addressesBounded) (hm : s.mode = .running)
    (hpc : s.pc.toNat ≤ 0xFFE) (h : exec i s = .next t) : t.addressesBounded := by
  obtain ⟨-, hstk, -⟩ := hs
  exact ⟨(exec_nextPc h).toNat_le hpc hstk, exec_stkAt_toNat_le hpc hstk h,
    fun ht => (exec_starts_wait hm h ht).symm ▸ hpc⟩

theorem runWord_addressesBounded {op : Word} {s t : State} (hs : s.addressesBounded) (hm : s.mode = .running)
    (hf : s.fetchWord = some op) (h : runWord op s = .next t) : t.addressesBounded := by
  obtain ⟨i, -, hexec⟩ | ⟨e, -, rfl⟩ := runWord_cases h
  · exact exec_addressesBounded hs hm ((fetchWord_isSome_iff s).1 (by simp [hf])) hexec
  · exact raise_addressesBounded hs ..

theorem step_addressesBounded {s t : State} (hs : s.addressesBounded) (h : step s = .next t) : t.addressesBounded := by
  obtain ⟨-, ⟨-, rfl⟩ | ⟨-, hm, rfl⟩ | ⟨-, -, -, rfl⟩ | ⟨-, hm, op, hf, hrun⟩⟩ := step_cases h
  · exact tickStep_addressesBounded hs
  · exact awaitStep_addressesBounded (sample_addressesBounded hs) hm
  · exact raise_addressesBounded (sample_addressesBounded hs) ..
  · exact runWord_addressesBounded (sample_addressesBounded hs) hm hf hrun

/-! ### Reset (R36) -/

theorem stkAt_reset (k : Fin 16) : State.reset.stkAt k = 0 := Vector.getElem_replicate _

theorem reset_memoryCanonical : State.reset.memoryCanonical := rfl

theorem reset_addressesBounded : State.reset.addressesBounded :=
  ⟨by decide, fun k => by simp [stkAt_reset], nofun⟩

theorem reset_recordTruthful : State.reset.recordTruthful := ⟨fun _ => ⟨rfl, rfl, rfl⟩, nofun⟩

end Sys2Proof.Machine

/-! ### The obligations -/

namespace Sys2Proof.Proofs.StateParts

open Sys2Proof.Machine

/-- Settles O56: the bounds hold of every successor of a fetched `pc`, CALL saves one of them, and a wait starts at a fetched
`pc`; no other case of a step moves `pc`, the stack or the mode, but the end of a wait. -/
theorem addressesStayBounded : Obligations.AddressesStayBounded := fun _ _ => step_addressesBounded

/-- Settles O53: each instruction's frame from the frames of its writes, and the registers one by one. -/
theorem instructionsWriteOnlyTheirParts : Obligations.InstructionsWriteOnlyTheirParts :=
  fun _ _ _ h => ⟨exec_frame h, fun _ => exec_getV_of_not_writesReg h⟩

/-- Settles O54: the last write of a flag-writing instruction to VF is a flag byte. -/
theorem flagsAreZeroOrOne : Obligations.FlagsAreZeroOrOne := by
  intro i s t hi h
  obtain ⟨c, hc⟩ := exec_getV_vf_of_writesFlag hi h
  have hvf : t.getV 15#4 = flagByte c := hc
  rw [hvf]
  exact flagByte_eq_zero_or_one c

/-- Settles O13: a halted state has no step whatever its inputs, and a `Cycle` step runs on the sampled state. -/
theorem staleInputsAreNotRead : Obligations.StaleInputsAreNotRead := by
  intro s key rnd pick ht
  cases hh : s.halt with
  | true => rw [step_of_halt hh, step_of_halt (s := s.latch key rnd pick) hh]
  | false =>
    calc step (s.latch key rnd pick) = cycle (s.latch key rnd pick).sample := step_of_no_ticksDue hh ht
      _ = cycle s.sample := by rw [sample_latch]
      _ = step s := (step_of_no_ticksDue hh ht).symm

/-- Settles O58. -/
theorem resetMeetsTheInvariants : Obligations.ResetMeetsTheInvariants :=
  ⟨reset_memoryCanonical, reset_addressesBounded, reset_recordTruthful⟩

end Sys2Proof.Proofs.StateParts
end

section
/-! SUPPORT. The memory list through an instruction and a step, the bytes a store of registers and a glyph address point at, and the
settled statements of spec/20_memory.md. -/

namespace Sys2Proof.Machine

/-! ### What a step does to the memory list (spec/20_memory.md R40, R47)

A frame says that memory reads the same; the canonical form is about the list itself. -/

theorem setRegs_mem (s : State) (k : Nat) (bs : List Byte) : (s.setRegs k bs).mem = s.mem := by rw [setRegs_eq_v]

theorem execRet_mem {s t : State} (h : execRet s = .next t) : t.mem = s.mem := by
  obtain ⟨-, hp⟩ | ⟨_, -, hp⟩ := pop_cases s
  · cases (execRet_of_empty hp).symm.trans h; rfl
  · cases (execRet_of_pop hp).symm.trans h; rfl

theorem execCall_mem {nnn : Addr} {s t : State} (h : execCall nnn s = .next t) : t.mem = s.mem := by
  obtain ⟨-, hp⟩ | ⟨_, hp⟩ := push_cases s (s.pc + 2)
  · cases (execCall_of_full nnn hp).symm.trans h; rfl
  · cases (execCall_of_push nnn hp).symm.trans h; rfl

/-- An instruction that is no store keeps the memory list itself. -/
theorem exec_mem_of_no_store {i : Instr} {s t : State} (hi : .memory ∉ partsWritten i) (h : exec i s = .next t) :
    t.mem = s.mem := by
  cases i with
  | ret => exact execRet_mem h
  | call nnn => exact execCall_mem h
  | ldVxMem x => cases h; exact setRegs_mem s _ _
  | ldBVx _ | ldMemVx _ => exact absurd hi (by simp [partsWritten])
  | _ => cases h; rfl

theorem awaitStep_mem (s : State) : (awaitStep s).mem = s.mem := by
  unfold awaitStep
  split <;> rfl

theorem tickStep_mem (s : State) : s.tickStep.mem = s.mem := by
  unfold State.tickStep State.tick
  split <;> rfl

/-- The canonical form is a property of the list alone. -/
theorem memoryCanonical_of_mem_eq {s t : State} (hs : s.memoryCanonical) (h : t.mem = s.mem) : t.memoryCanonical := by
  rwa [State.memoryCanonical, h]

/-- `Fx33` and `Fx55` store byte by byte, and each write keeps the form; no other instruction touches the list. -/
theorem exec_memoryCanonical {i : Instr} {s t : State} (hs : s.memoryCanonical) (h : exec i s = .next t) :
    t.memoryCanonical := by
  cases i with
  | ldBVx _ | ldMemVx _ => cases h; exact storeBytes_wf hs _ _
  | _ => exact memoryCanonical_of_mem_eq hs (exec_mem_of_no_store (by simp [partsWritten]) h)

theorem runWord_memoryCanonical {op : Word} {s t : State} (hs : s.memoryCanonical) (h : runWord op s = .next t) :
    t.memoryCanonical := by
  obtain ⟨i, -, hexec⟩ | ⟨e, -, rfl⟩ := runWord_cases h
  · exact exec_memoryCanonical hs hexec
  · exact memoryCanonical_of_mem_eq hs rfl

theorem step_memoryCanonical {s t : State} (hs : s.memoryCanonical) (h : step s = .next t) : t.memoryCanonical := by
  have hsample : s.sample.memoryCanonical := memoryCanonical_of_mem_eq hs (sample_mem s)
  obtain ⟨-, ⟨-, rfl⟩ | ⟨-, -, rfl⟩ | ⟨-, -, -, rfl⟩ | ⟨-, -, op, -, hrun⟩⟩ := step_cases h
  · exact memoryCanonical_of_mem_eq hs (tickStep_mem s)
  · exact memoryCanonical_of_mem_eq hsample (awaitStep_mem _)
  · exact memoryCanonical_of_mem_eq hsample rfl
  · exact runWord_memoryCanonical hsample hrun

/-! ### A fetch out of bounds (spec/20_memory.md R43) -/

theorem fetchWord_eq_none {s : State} (h : 0xFFE < s.pc.toNat) : s.fetchWord = none := by
  rw [← Option.not_isSome_iff_eq_none, fetchWord_isSome_iff]
  omega

theorem step_of_no_fetch {s : State} (hh : s.halt = false) (ht : s.ticksDue = 0) (hm : s.mode = .running)
    (hf : s.fetchWord = none) : step s = .next (s.sample.raise .pcOutOfBounds s.pc 0) :=
  (step_of_no_ticksDue hh ht).trans (cycle_of_no_fetch (s := s.sample) hm hf)

theorem step_of_awaitingKey {s : State} (hh : s.halt = false) (ht : s.ticksDue = 0) (hm : s.mode = .awaitingKey) :
    step s = .next (awaitStep s.sample) :=
  (step_of_no_ticksDue hh ht).trans (cycle_of_awaitingKey (s := s.sample) hm)

/-- A look at the keys raises no fault. -/
theorem awaitStep_halt (s : State) : (awaitStep s).halt = s.halt := by
  unfold awaitStep
  split <;> rfl

/-- A fault entry in a `Cycle` step writes the record and the inputs of the step. -/
theorem sample_raise_frame (s : State) (q : FaultKind) (w u : Word) :
    onlyChanges [.fault, .inputs] s (s.sample.raise q w u) :=
  onlyChanges_mono (by simp) (onlyChanges_append (sample_frame s) (raise_frame _ q w u))

/-! ### The bytes an instruction stores or points at (spec/44_index_memory.md R122, R124) -/

/-- `Fx55` puts `V[k]` at `EA(k)`, for `k` up to `x`. -/
theorem readByte_storeBytes_regsUpTo (s : State) (x : RegIx) {k : Nat} (hk : k ≤ x.toNat) :
    (s.storeBytes 0 (s.regsUpTo x)).readByte (s.ea k) = s.getV (BitVec.ofNat 4 k) := by
  have hx := x.isLt
  have hlen : (s.regsUpTo x).length = x.toNat + 1 := length_regsUpTo s x
  have h := readByte_storeBytes s 0 (s.regsUpTo x) (by omega) k (by omega)
  rwa [Nat.zero_add, getElem_regsUpTo] at h

/-- The word fetched right after `Fx55` from its first address, with no wrap between the first two (R54). -/
theorem fetchWord_storeBytes_regsUpTo (s : State) {x : RegIx} (hx : 1 ≤ x.toNat)
    (hrise : (s.ea 1).toNat = (s.ea 0).toNat + 1) :
    ((s.storeBytes 0 (s.regsUpTo x)).setPc ((s.ea 0).setWidth 16)).fetchWord = some (wordOfBytes (s.getV 0) (s.getV 1)) := by
  have hpc : ((s.ea 0).setWidth 16).toNat = (s.ea 0).toNat := by simp; omega
  rw [fetchWord_eq_wordOfBytes (a := s.ea 0) (b := s.ea 1) hpc.symm (hrise.trans (congrArg (· + 1) hpc.symm)),
    setPc_readByte, setPc_readByte, readByte_storeBytes_regsUpTo s x (Nat.zero_le _), readByte_storeBytes_regsUpTo s x hx]
  rfl

/-- The glyph address does not wrap, whatever the byte. -/
theorem glyphAddress_toNat (b : Byte) : (glyphAddress b).toNat = 5 * b.toNat := by
  have := b.isLt
  simp only [glyphAddress, Config.fontBase, BitVec.toNat_add, BitVec.toNat_ofNat]
  omega

/-- With `I` at the glyph address of a byte, `EA(r)` is the address of byte `r` of that glyph. -/
theorem ea_setI_glyphAddress (s : State) (b : Byte) (r : Nat) :
    (s.setI (glyphAddress b)).ea r = BitVec.ofNat 12 (5 * b.toNat + r) := by
  apply BitVec.eq_of_toNat_eq
  rw [ea_toNat, setI_i, glyphAddress_toNat, BitVec.toNat_ofNat]

end Sys2Proof.Machine

/-! ### The obligations -/

namespace Sys2Proof.Proofs.MemoryRules

open Sys2Proof.Machine

/-- Settles O55: the only writes to the list are the stores of `Fx33` and `Fx55`, made of writes that keep the form. -/
theorem memoryStaysCanonical : Obligations.MemoryStaysCanonical := fun _ _ => step_memoryCanonical

/-- Settles O9: there is no word to fetch, so a running core enters the fault on the sampled state; a waiting one looks at
the keys only. -/
theorem fetchOutOfBoundsFaults : Obligations.FetchOutOfBoundsFaults := by
  intro s hh ht hpc
  refine ⟨fun hm => ?_, fun hm => ?_⟩
  · exact ⟨_, step_of_no_fetch hh ht hm (fetchWord_eq_none hpc), rfl, rfl, rfl, rfl, sample_raise_frame s _ _ _⟩
  · exact ⟨_, step_of_awaitingKey hh ht hm, (awaitStep_halt _).trans hh⟩

/-- Settles O43, by the law of a read after a write. -/
theorem memoryReadsLastWrite : Obligations.MemoryReadsLastWrite := by
  intro s a w
  refine ⟨?_, fun c hc => ?_, writeByte_frame s a w⟩
  · rw [readByte_writeByte, if_pos rfl]
  · rw [readByte_writeByte, if_neg hc]

/-- Settles O44: the store put V0 and V1 at the two addresses the fetch reads. -/
theorem storedCodeIsFetched : Obligations.StoredCodeIsFetched :=
  fun _ s hx hrise => ⟨_, rfl, fetchWord_storeBytes_regsUpTo s hx hrise⟩

/-- Settles O45: `EA(r)` is the address of the glyph's byte `r`, and LD F changes no memory. -/
theorem glyphLookupFindsGlyph : Obligations.GlyphLookupFindsGlyph := by
  intro font x s hl hfont hd
  refine ⟨_, rfl, fun r hr => ?_⟩
  calc (s.setI (glyphAddress (s.getV x))).readByte ((s.setI (glyphAddress (s.getV x))).ea r)
      = s.readByte (BitVec.ofNat 12 (5 * (s.getV x).toNat + r)) := by rw [ea_setI_glyphAddress, setI_readByte]
    _ = font[5 * (s.getV x).toNat + r] := hfont _ _

/-- Settles O5: the fetched word is the two bytes, the first above the second. -/
theorem fetchIsBigEndian : Obligations.FetchIsBigEndian :=
  fun _ _ _ ha hb => ⟨_, fetchWord_eq_wordOfBytes ha hb, wordOfBytes_toNat _ _⟩

/-- Settles O39. -/
theorem effectiveAddressWraps : Obligations.EffectiveAddressWraps := ea_toNat

end Sys2Proof.Proofs.MemoryRules
end

section
/-! SUPPORT. Decoding against encoding, the opcode map family by family, the step on a word that is no instruction, and the settled
statements of spec/30_encoding.md. -/

namespace Sys2Proof

/-! ### Decoding a word and encoding it again (spec/30_encoding.md R61 to R67) -/

/-- The fields of an encoded instruction are the ones it was put together from, and its family and key lead back to it. -/
theorem decodeWord_encode (i : Instr) : decodeWord (encode i) = .ok i := by
  cases i with
  | cls | ret => rfl
  | jp | call | ldINnn | jpV0 | seVxNn | sneVxNn | ldVxNn | addVxNn | rndVxNn | seVxVy | sneVxVy | drw =>
    simp [encode, decodeWord]
  | ldVxVy | orVxVy | andVxVy | xorVxVy | addVxVy | subVxVy | shrVx | subnVxVy | shlVx =>
    simp [encode, decodeWord, decodeFamily8]
  | skp | sknp => simp [encode, decodeWord, decodeFamilyE]
  | ldVxDt | ldVxK | ldDtVx | ldStVx | addIVx | ldFVx | ldBVx | ldMemVx | ldVxMem =>
    simp [encode, decodeWord, decodeFamilyF]

/-- The decoder's answer for `op` loses nothing of it: an instruction whose word is `op`, or the one error that a word can have. -/
def Faithful (op : Word) : Except DecodeError Instr → Prop
  | .ok i => encode i = op
  | .error e => e = .unusedSubOpcode

theorem decodeFamily0_faithful (op : Word) : Faithful op (decodeFamily0 op) := by
  unfold decodeFamily0
  split_ifs with hcls hret
  · exact hcls.symm
  · exact hret.symm
  · rfl

theorem decodeFamily8_faithful {op : Word} {x y : RegIx} {n : Nibble} (hop : wordXY 0x8 x y n = op) :
    Faithful op (decodeFamily8 x y n) := by
  subst hop
  unfold decodeFamily8
  split <;> rfl

theorem decodeFamilyE_faithful {op : Word} {x : RegIx} {nn : Byte} (hop : wordXNN 0xE x nn = op) :
    Faithful op (decodeFamilyE x nn) := by
  subst hop
  unfold decodeFamilyE
  split <;> rfl

theorem decodeFamilyF_faithful {op : Word} {x : RegIx} {nn : Byte} (hop : wordXNN 0xF x nn = op) :
    Faithful op (decodeFamilyF x nn) := by
  subst hop
  unfold decodeFamilyF
  split <;> rfl

/-- Family by family, the word is its fields put together in the family's format, and no word is of a seventeenth family. -/
theorem decodeWord_faithful (op : Word) : Faithful op (decodeWord op) := by
  have hNNN := wordNNN_fields op
  have hXNN := wordXNN_fields op
  have hXY := wordXY_fields op
  unfold decodeWord
  split
  case h_1 => exact decodeFamily0_faithful op
  case h_2 hf | h_3 hf | h_11 hf | h_12 hf => rw [hf] at hNNN; exact hNNN
  case h_4 hf | h_5 hf | h_7 hf | h_8 hf | h_13 hf => rw [hf] at hXNN; exact hXNN
  case h_14 hf => rw [hf] at hXY; exact hXY
  case h_6 hf | h_10 hf =>
    split_ifs with hn
    · rw [hf, hn] at hXY; exact hXY
    · rfl
  case h_9 hf => rw [hf] at hXY; exact decodeFamily8_faithful hXY
  case h_15 hf => rw [hf] at hXNN; exact decodeFamilyE_faithful hXNN
  case h_16 hf => rw [hf] at hXNN; exact decodeFamilyF_faithful hXNN
  case h_17 => simp only [imp_false] at *; bv_omega

theorem encode_of_decodeWord {op : Word} {i : Instr} (h : decodeWord op = .ok i) : encode i = op := by
  have hop := decodeWord_faithful op
  rwa [h] at hop

theorem unusedSubOpcode_of_decodeWord_error {op : Word} {e : DecodeError} (h : decodeWord op = .error e) :
    e = .unusedSubOpcode := by
  have hop := decodeWord_faithful op
  rwa [h] at hop

/-! ### The opcode map, family by family (spec/30_encoding.md R64, R65)

Only rows of the word's own family can cover it, and in one family all rows have one mask, so the first row that covers the word
is found by the key under that mask: nothing, the low nibble, the low byte or, in family 0, the word. -/

/-- The rows whose family nibble is `f`, in the order of the map. -/
def rowsOfFamily (f : Nibble) : List OpcodeRow := opcodeMap.filter (fun r => famField r.pattern == f)

theorem and_F000 (op : Word) : op &&& 0xF000#16 = wordNNN (famField op) 0 := by
  have hfam : famField (op &&& 0xF000#16) = famField op := BitVec.extractLsb'_and.trans BitVec.and_allOnes
  have hnnn : nnnField (op &&& 0xF000#16) = 0 := BitVec.extractLsb'_and.trans BitVec.and_zero
  rw [← wordNNN_fields (op &&& _), hfam, hnnn]

theorem and_F00F (op : Word) : op &&& 0xF00F#16 = wordXY (famField op) 0 0 (nField op) := by
  have hfam : famField (op &&& 0xF00F#16) = famField op := BitVec.extractLsb'_and.trans BitVec.and_allOnes
  have hx : xField (op &&& 0xF00F#16) = 0 := BitVec.extractLsb'_and.trans BitVec.and_zero
  have hy : yField (op &&& 0xF00F#16) = 0 := BitVec.extractLsb'_and.trans BitVec.and_zero
  have hn : nField (op &&& 0xF00F#16) = nField op := BitVec.extractLsb'_and.trans BitVec.and_allOnes
  rw [← wordXY_fields (op &&& _), hfam, hx, hy, hn]

theorem and_F0FF (op : Word) : op &&& 0xF0FF#16 = wordXNN (famField op) 0 (nnField op) := by
  have hfam : famField (op &&& 0xF0FF#16) = famField op := BitVec.extractLsb'_and.trans BitVec.and_allOnes
  have hx : xField (op &&& 0xF0FF#16) = 0 := BitVec.extractLsb'_and.trans BitVec.and_zero
  have hnn : nnField (op &&& 0xF0FF#16) = nnField op := BitVec.extractLsb'_and.trans BitVec.and_allOnes
  rw [← wordXNN_fields (op &&& _), hfam, hx, hnn]

theorem famField_pattern_of_covers {r : OpcodeRow} {op : Word} (hr : r ∈ opcodeMap) (h : r.covers op = true) :
    famField r.pattern = famField op := by
  have hmask : ∀ r ∈ opcodeMap, famField r.mask = BitVec.allOnes 4 := by decide
  have hand : op &&& r.mask = r.pattern := by simpa [OpcodeRow.covers] using h
  calc famField r.pattern = famField op &&& famField r.mask := hand ▸ BitVec.extractLsb'_and
    _ = famField op := by rw [hmask r hr, BitVec.and_allOnes]

theorem rowOf_eq_find_rowsOfFamily {op : Word} {f : Nibble} (hf : famField op = f) :
    rowOf op = (rowsOfFamily f).find? (·.covers op) := by
  rw [rowOf, rowsOfFamily, List.find?_filter]
  refine List.find?_congr fun r hr => ?_
  cases hc : r.covers op with
  | true => simp [famField_pattern_of_covers hr hc, hf]
  | false => simp

/-- In a family whose rows all have the mask `m`, the lookup compares the bits under `m`, for a row covers its own pattern. -/
theorem rowOf_eq_find_and {op m : Word} {f : Nibble} (hf : famField op = f) (hm : ∀ r ∈ rowsOfFamily f, r.mask = m) :
    rowOf op = (rowsOfFamily f).find? (fun r => op &&& m == r.pattern &&& m) := by
  have hself : ∀ r ∈ opcodeMap, r.pattern &&& r.mask = r.pattern := by decide
  rw [rowOf_eq_find_rowsOfFamily hf]
  refine List.find?_congr fun r hr => ?_
  rw [OpcodeRow.covers, ← hm r hr, hself r (List.mem_of_mem_filter hr)]

theorem famField_pattern_of_mem {r : OpcodeRow} {f : Nibble} (hr : r ∈ rowsOfFamily f) : famField r.pattern = f := by
  simpa using (List.mem_filter.1 hr).2

/-- A family with one row and no key: the row covers every word of the family. -/
theorem rowOf_of_no_key {op : Word} {f : Nibble} {r : OpcodeRow} (hf : famField op = f) (hrows : rowsOfFamily f = [r])
    (hm : r.mask = 0xF000#16) : rowOf op = some r := by
  have hr : famField r.pattern = f := famField_pattern_of_mem (by simp [hrows])
  rw [rowOf_eq_find_and hf (by simpa [hrows] using hm), hrows]
  simp [and_F000, hf, hr]

theorem rowOf_of_nibble_key {op : Word} {f : Nibble} (hf : famField op = f) (hm : ∀ r ∈ rowsOfFamily f, r.mask = 0xF00F#16) :
    rowOf op = (rowsOfFamily f).find? (fun r => nField op == nField r.pattern) := by
  rw [rowOf_eq_find_and hf hm]
  refine List.find?_congr fun r hr => Bool.eq_iff_iff.2 ?_
  rw [and_F00F, and_F00F, hf, famField_pattern_of_mem hr, beq_iff_eq, beq_iff_eq]
  exact ⟨fun h => by simpa using congrArg nField h, fun h => by rw [h]⟩

theorem rowOf_of_byte_key {op : Word} {f : Nibble} (hf : famField op = f) (hm : ∀ r ∈ rowsOfFamily f, r.mask = 0xF0FF#16) :
    rowOf op = (rowsOfFamily f).find? (fun r => nnField op == nnField r.pattern) := by
  rw [rowOf_eq_find_and hf hm]
  refine List.find?_congr fun r hr => Bool.eq_iff_iff.2 ?_
  rw [and_F0FF, and_F0FF, hf, famField_pattern_of_mem hr, beq_iff_eq, beq_iff_eq]
  exact ⟨fun h => by simpa using congrArg nnField h, fun h => by rw [h]⟩

/-- The mnemonic of the decoded instruction, if there is one. -/
def decodedMnemonic (d : Except DecodeError Instr) : Option String := d.toOption.map Instr.mnemonic

@[simp] theorem decodedMnemonic_ok (i : Instr) : decodedMnemonic (.ok i) = some i.mnemonic := rfl

@[simp] theorem decodedMnemonic_error (e : DecodeError) : decodedMnemonic (.error e) = none := rfl

theorem rowOf_mnemonic_family0 {op : Word} (hf : famField op = 0x0#4) :
    (rowOf op).map (·.mnemonic) = decodedMnemonic (decodeFamily0 op) := by
  rw [rowOf_eq_find_and (m := BitVec.allOnes 16) hf (by decide)]
  simp only [BitVec.and_allOnes]
  unfold decodeFamily0
  split_ifs with hcls hret
  · rw [hcls]; rfl
  · rw [hret]; rfl
  · simp [rowsOfFamily, opcodeMap, famField, hcls, hret]

theorem rowOf_mnemonic_zero_nibble {op : Word} {f : Nibble} {r : OpcodeRow} {i : Instr} (hf : famField op = f)
    (hrows : rowsOfFamily f = [r]) (hm : r.mask = 0xF00F#16) (hkey : nField r.pattern = 0x0#4)
    (hi : i.mnemonic = r.mnemonic) :
    (rowOf op).map (·.mnemonic) = decodedMnemonic (if nField op = 0x0#4 then .ok i else .error .unusedSubOpcode) := by
  rw [rowOf_of_nibble_key hf (by simpa [hrows] using hm), hrows]
  split_ifs with hn
  · simp [hn, hkey, hi]
  · simp [hn, hkey]

theorem rowOf_mnemonic_family8 {op : Word} (hf : famField op = 0x8#4) (x y : RegIx) :
    (rowOf op).map (·.mnemonic) = decodedMnemonic (decodeFamily8 x y (nField op)) := by
  rw [rowOf_of_nibble_key hf (by decide)]
  generalize nField op = n
  unfold decodeFamily8
  split
  case h_10 =>
    simp only [imp_false] at *
    simp [rowsOfFamily, opcodeMap, famField, nField, *]
  all_goals rfl

theorem rowOf_mnemonic_familyE {op : Word} (hf : famField op = 0xE#4) (x : RegIx) :
    (rowOf op).map (·.mnemonic) = decodedMnemonic (decodeFamilyE x (nnField op)) := by
  rw [rowOf_of_byte_key hf (by decide)]
  generalize nnField op = nn
  unfold decodeFamilyE
  split
  case h_3 =>
    simp only [imp_false] at *
    simp [rowsOfFamily, opcodeMap, famField, nnField, *]
  all_goals rfl

theorem rowOf_mnemonic_familyF {op : Word} (hf : famField op = 0xF#4) (x : RegIx) :
    (rowOf op).map (·.mnemonic) = decodedMnemonic (decodeFamilyF x (nnField op)) := by
  rw [rowOf_of_byte_key hf (by decide)]
  generalize nnField op = nn
  unfold decodeFamilyF
  split
  case h_10 =>
    simp only [imp_false] at *
    simp [rowsOfFamily, opcodeMap, famField, nnField, *]
  all_goals rfl

/-- The two accounts of the legal words name the same instruction, or none. -/
theorem rowOf_mnemonic (op : Word) : (rowOf op).map (·.mnemonic) = decodedMnemonic (decodeWord op) := by
  unfold decodeWord
  split
  case h_1 hf => exact rowOf_mnemonic_family0 hf
  case h_6 hf | h_10 hf => exact rowOf_mnemonic_zero_nibble hf rfl rfl rfl rfl
  case h_9 hf => exact rowOf_mnemonic_family8 hf _ _
  case h_15 hf => exact rowOf_mnemonic_familyE hf _
  case h_16 hf => exact rowOf_mnemonic_familyF hf _
  case h_17 => simp only [imp_false] at *; bv_omega
  case h_2 hf | h_3 hf | h_4 hf | h_5 hf | h_7 hf | h_8 hf | h_11 hf | h_12 hf | h_13 hf | h_14 hf =>
    rw [rowOf_of_no_key hf rfl rfl]; rfl

theorem legalWord_eq_false_iff {op : Word} : legalWord op = false ↔ decodeWord op = .error .unusedSubOpcode := by
  have hm := rowOf_mnemonic op
  constructor
  · intro h
    have hrow : rowOf op = none := by simpa [legalWord] using h
    cases hd : decodeWord op with
    | ok i => simp [hrow, hd] at hm
    | error e => rw [unusedSubOpcode_of_decodeWord_error hd]
  · intro hd
    have hrow : rowOf op = none := by simpa [hd] using hm
    simp [legalWord, hrow]

theorem exists_row_of_decodeWord {op : Word} {i : Instr} (h : decodeWord op = .ok i) :
    ∃ r, rowOf op = some r ∧ r.mnemonic = i.mnemonic := by
  have hm := rowOf_mnemonic op
  rw [h] at hm
  exact Option.map_eq_some_iff.1 hm

end Sys2Proof

namespace Sys2Proof.Machine

/-- A running core with no `Tick` due raises `UnusedSubOpcode` on a word that is no row of the opcode map (R66, R154). -/
theorem step_of_illegal {s : State} {op : Word} (hh : s.halt = false) (ht : s.ticksDue = 0) (hm : s.mode = .running)
    (hf : s.fetchWord = some op) (hop : legalWord op = false) :
    step s = .next (s.sample.raise .unusedSubOpcode s.pc op) :=
  calc step s = cycle s.sample := step_of_no_ticksDue hh ht
    _ = runWord op s.sample := cycle_of_fetch hm hf
    _ = .next (s.sample.raise .unusedSubOpcode s.pc op) := runWord_of_illegal _ (legalWord_eq_false_iff.1 hop)

end Sys2Proof.Machine

/-! ### The obligations -/

namespace Sys2Proof.Proofs.Encoding

open Sys2Proof.Machine

/-- Settles O2: the word decodes by its packed fields, and decoding its two bytes is decoding the word. -/
theorem decodeOfEncodeIsIdentity : Obligations.DecodeOfEncodeIsIdentity := by
  intro i rest
  refine ⟨decodeWord_encode i, ?_⟩
  rw [decode_bytesOfWord, decodeWord_encode]
  rfl

/-- Settles O3, by the family of the word: its instruction is put together from its own fields. -/
theorem encodeOfDecodeIsIdentity : Obligations.EncodeOfDecodeIsIdentity := fun _ _ => encode_of_decodeWord

/-- Settles O4: the decoder and the lookup in the map, both taken apart by family and key, name the same instruction. -/
theorem decoderAgreesWithOpcodeMap : Obligations.DecoderAgreesWithOpcodeMap := by
  intro op
  cases hd : decodeWord op with
  | ok i =>
    obtain ⟨r, hrow, hmnemonic⟩ := exists_row_of_decodeWord hd
    exact .inl ⟨i, r, rfl, hrow, hmnemonic⟩
  | error e =>
    obtain rfl := unusedSubOpcode_of_decodeWord_error hd
    exact .inr ⟨rfl, legalWord_eq_false_iff.2 hd⟩

/-- Settles O10: a word on no row has the decoder's one error, whose fault is `UnusedSubOpcode`. -/
theorem illegalWordFaults : Obligations.IllegalWordFaults := by
  intro s op hh ht hm hf hop
  exact ⟨_, step_of_illegal hh ht hm hf hop, rfl, rfl, rfl, rfl, sample_raise_frame s _ _ _⟩

/-- Settles O1: each sample is a fixed word. -/
theorem sampleWordsDecode : Obligations.SampleWordsDecode := by
  unfold Obligations.SampleWordsDecode
  decide

end Sys2Proof.Proofs.Encoding
end

section
/-! SUPPORT. The call stack by its depth, what CALL and RET do at each depth, chains of CALLs, and the settled statements of
spec/40_flow.md. -/

namespace Sys2Proof.Machine

/-! ### A push and a pop by the depth of the stack (spec/10_state.md R24) -/

theorem push_of_lt {s : State} (w : Word) (h : s.sp.val < 16) : ∃ s', s.push w = some s' := by
  obtain ⟨hfull, -⟩ | ⟨_, hp⟩ := push_cases s w
  · omega
  · exact ⟨_, hp⟩

theorem push_of_full {s : State} (w : Word) (h : s.sp.val = 16) : s.push w = none := by
  obtain ⟨-, hp⟩ | ⟨hlt, -⟩ := push_cases s w
  · exact hp
  · omega

theorem sp_push {s s' : State} {w : Word} (h : s.push w = some s') : s'.sp.val = s.sp.val + 1 := by
  obtain ⟨-, hnone⟩ | ⟨_, hsome⟩ := push_cases s w
  · cases hnone.symm.trans h
  · cases hsome.symm.trans h; rfl

/-- With `k + 1` entries the newest is `STK[k]`, and `k` are left. -/
theorem pop_of_depth {s : State} {k : Fin 16} (h : s.sp.val = k.val + 1) :
    ∃ s', s.pop = some (s.stkAt k, s') ∧ s'.sp.val = k.val := by
  obtain ⟨hempty, -⟩ | ⟨hlt, -, hp⟩ := pop_cases s
  · omega
  · have hk : (⟨s.sp.val - 1, hlt⟩ : Fin 16) = k := Fin.ext (by simp [h])
    exact ⟨_, hk ▸ hp, by simp [h]⟩

theorem pop_of_empty {s : State} (h : s.sp.val = 0) : s.pop = none := by
  obtain ⟨-, hp⟩ | ⟨_, hne, -⟩ := pop_cases s
  · exact hp
  · exact absurd h hne

/-! ### CALL and RET by the depth of the stack (spec/40_flow.md R80, R82) -/

theorem exec_call_of_push {s s' : State} (nnn : Addr) (hp : s.push (s.pc + 2) = some s') :
    exec (.call nnn) s = .next (s'.setPc (nnn.setWidth 16)) := execCall_of_push nnn hp

theorem exec_call_of_full {s : State} (nnn : Addr) (h : s.sp.val = 16) :
    exec (.call nnn) s = .next (s.raise .stackOverflow s.pc (0x2#4 ++ nnn)) := execCall_of_full nnn (push_of_full _ h)

theorem exec_ret_of_pop {s s' : State} {target : Word} (hp : s.pop = some (target, s')) :
    exec .ret s = .next (s'.setPc target) := execRet_of_pop hp

theorem exec_ret_of_empty {s : State} (h : s.sp.val = 0) :
    exec .ret s = .next (s.raise .stackUnderflow s.pc 0x00EE#16) := execRet_of_empty (pop_of_empty h)

theorem push_setPc_frame {s s' : State} {w : Word} (hp : s.push w = some s') (target : Word) :
    onlyChanges [.stack, .pc] s (s'.setPc target) := onlyChanges_append (push_frame hp) (setPc_frame s' target)

theorem push_setPc_sp {s s' : State} {w : Word} (hp : s.push w = some s') (target : Word) :
    (s'.setPc target).sp.val = s.sp.val + 1 := by rw [setPc_sp, sp_push hp]

theorem pop_setPc_frame {s s' : State} {w : Word} (hp : s.pop = some (w, s')) (target : Word) :
    onlyChanges [.stack, .pc] s (s'.setPc target) := onlyChanges_append (pop_frame hp) (setPc_frame s' target)

/-- A CALL with room on the stack is one level deeper and no fault (R82). -/
theorem exec_call_sp_halt {nnn : Addr} {s t : State} (h : exec (.call nnn) s = .next t) (hroom : s.sp.val < 16) :
    t.sp.val = s.sp.val + 1 ∧ t.halt = s.halt := by
  obtain ⟨s', hp⟩ := push_of_lt (s.pc + 2) hroom
  cases (exec_call_of_push nnn hp).symm.trans h
  obtain ⟨hhalt, -⟩ := push_setPc_frame hp (nnn.setWidth 16) .fault (by decide)
  exact ⟨push_setPc_sp hp _, hhalt⟩

/-- Along a chain of CALLs from an empty stack the depth counts the CALLs, up to the sixteenth. -/
theorem call_chain_sp_halt {f : Nat → State} {target : Nat → Addr} (h0 : (f 0).sp.val = 0)
    (hf : ∀ k, exec (.call (target k)) (f k) = .next (f (k + 1))) (k : Nat) (hk : k ≤ 16) :
    (f k).sp.val = k ∧ (f k).halt = (f 0).halt := by
  induction k with
  | zero => exact ⟨h0, rfl⟩
  | succ k ih =>
    obtain ⟨hsp, hhalt⟩ := ih (by omega)
    obtain ⟨hsp', hhalt'⟩ := exec_call_sp_halt (hf k) (by omega)
    exact ⟨by rw [hsp', hsp], hhalt'.trans hhalt⟩

/-! ### Jump targets as numbers (spec/40_flow.md R81, R83) -/

theorem jumpTarget_toNat (nnn : Addr) : (nnn.setWidth 16).toNat = nnn.toNat := BitVec.toNat_setWidth_of_le (by decide)

/-- The sum does not reach 65536, so it is exact. -/
theorem jumpV0Target_toNat (nnn : Addr) (b : Byte) : (nnn.setWidth 16 + b.setWidth 16).toNat = nnn.toNat + b.toNat := by
  bv_omega

end Sys2Proof.Machine

/-! ### The obligations -/

namespace Sys2Proof.Proofs.Flow

open Sys2Proof.Machine

/-- Settles O20: a pop takes the newest entry and clears none, and an empty stack has nothing to pop. -/
theorem returnPopsIntoPc : Obligations.ReturnPopsIntoPc := by
  refine ⟨decodeWord_encode .ret, fun s => ⟨fun k hk => ?_, exec_ret_of_empty⟩⟩
  obtain ⟨s', hp, hsp⟩ := pop_of_depth hk
  have hret := exec_ret_of_pop hp
  exact ⟨_, hret, rfl, hsp, execRet_stkAt hret, pop_setPc_frame hp _⟩

/-- Settles O22: a push writes the entry at the depth and no other, and a full stack takes none. -/
theorem callPushesReturnAddress : Obligations.CallPushesReturnAddress := by
  refine fun nnn s => ⟨decodeWord_encode (.call nnn), fun k hk => ?_, exec_call_of_full nnn⟩
  obtain ⟨s', hp⟩ := push_of_lt (s.pc + 2) (hk ▸ k.isLt)
  refine ⟨_, exec_call_of_push nnn hp, ?_, fun j hj => ?_, hk ▸ push_setPc_sp hp _,
    jumpTarget_toNat nnn, push_setPc_frame hp _⟩
  · rw [setPc_stkAt, stkAt_push hp, if_pos hk]
  · rw [setPc_stkAt, stkAt_push hp, if_neg fun h => hj (Fin.ext (h.symm.trans hk))]

/-- Settles O24: the entry the CALL pushes is the one the RET pops. -/
theorem callThenReturnRestoresPc : Obligations.CallThenReturnRestoresPc := by
  intro nnn s hroom
  obtain ⟨s', hpush⟩ := push_of_lt (s.pc + 2) hroom
  obtain ⟨u, hpop, hsp⟩ := pop_of_depth (s := s'.setPc (nnn.setWidth 16)) (k := ⟨s.sp.val, hroom⟩) (push_setPc_sp hpush _)
  have hpushed : (s'.setPc (nnn.setWidth 16)).stkAt ⟨s.sp.val, hroom⟩ = s.pc + 2 := by
    rw [setPc_stkAt, stkAt_push hpush, if_pos rfl]
  exact ⟨_, _, exec_call_of_push nnn hpush, exec_ret_of_pop hpop, hpushed, Fin.ext hsp,
    onlyChanges_trans (push_setPc_frame hpush _) (pop_setPc_frame hpop _)⟩

/-- Settles O25, by induction along the chain: sixteen CALLs fill the stack, and the next finds it full. -/
theorem seventeenthNestedCallFaults : Obligations.SeventeenthNestedCallFaults := by
  intro f target h0 hf
  have hchain := call_chain_sp_halt h0 hf
  obtain ⟨hfull, -⟩ := hchain 16 le_rfl
  exact ⟨hchain, Host.Outcome.next.inj ((hf 16).symm.trans (exec_call_of_full (target 16) hfull))⟩

/-- Settles O21: JP writes `pc` only. -/
theorem jumpSetsPc : Obligations.JumpSetsPc :=
  fun nnn s => ⟨decodeWord_jp nnn, _, rfl, jumpTarget_toNat nnn, setPc_frame s _⟩

/-- Settles O23: JP V0 writes `pc` only, with a sum that fits 16 bits. -/
theorem jumpV0AddsV0 : Obligations.JumpV0AddsV0 :=
  fun nnn s => ⟨decodeWord_encode (.jpV0 nnn), _, rfl, jumpV0Target_toNat nnn _, setPc_frame s _⟩

end Sys2Proof.Proofs.Flow
end

section
/-! SUPPORT. What a conditional skip does to `pc`, the illegal words of the register skips, and the settled statements of
spec/41_skip.md. -/

namespace Sys2Proof.Machine

/-! ### The two outcomes of a skip (spec/41_skip.md) -/

theorem skipIf_true_pc (s : State) : (s.skipIf true).pc = s.pc + 4 := rfl

theorem skipIf_false_pc (s : State) : (s.skipIf false).pc = s.pc + 2 := rfl

theorem skipIf_frame (s : State) (c : Bool) : onlyChanges [.pc] s (s.skipIf c) := setPc_frame s _

/-- An instruction that is a skip on the test `c` skips where `c` is true, goes on where it is false, and writes `pc` only. -/
theorem exec_of_skipIf {i : Instr} {s : State} {c : Bool} {Skips GoesOn : Prop} (h : exec i s = .next (s.skipIf c))
    (hskip : Skips → c = true) (hgo : GoesOn → c = false) :
    ∃ t, exec i s = .next t ∧ (Skips → t.pc = s.pc + 4) ∧ (GoesOn → t.pc = s.pc + 2) ∧ onlyChanges [.pc] s t := by
  refine ⟨s.skipIf c, h, fun hs => ?_, fun hg => ?_, skipIf_frame s c⟩
  · rw [hskip hs, skipIf_true_pc]
  · rw [hgo hg, skipIf_false_pc]

/-! ### The four skips on register values (spec/41_skip.md R90 to R93) -/

theorem exec_seVxNn (x : RegIx) (nn : Byte) (s : State) :
    exec (.seVxNn x nn) s = .next (s.skipIf (s.getV x == nn)) := rfl

theorem exec_sneVxNn (x : RegIx) (nn : Byte) (s : State) :
    exec (.sneVxNn x nn) s = .next (s.skipIf (s.getV x != nn)) := rfl

theorem exec_seVxVy (x y : RegIx) (s : State) :
    exec (.seVxVy x y) s = .next (s.skipIf (s.getV x == s.getV y)) := rfl

theorem exec_sneVxVy (x y : RegIx) (s : State) :
    exec (.sneVxVy x y) s = .next (s.skipIf (s.getV x != s.getV y)) := rfl

end Sys2Proof.Machine

namespace Sys2Proof

/-! ### Families 5 and 9 have one low nibble (spec/41_skip.md R92, R93) -/

theorem decodeWord_wordXY_illegal {f n : Nibble} (hf : f = 0x5#4 ∨ f = 0x9#4) (x y : RegIx) (hn : n ≠ 0x0#4) :
    decodeWord (wordXY f x y n) = .error .unusedSubOpcode := by
  obtain rfl | rfl := hf
  · simp [decodeWord, hn]
  · simp [decodeWord, hn]

end Sys2Proof

/-! ### The obligations -/

namespace Sys2Proof.Proofs.Skip

open Sys2Proof.Machine

/-- Settles O27: SE tests equality and SNE its negation, and each is a skip on its test. -/
theorem skipsAgainstImmediate : Obligations.SkipsAgainstImmediate := by
  intro x nn s
  refine ⟨decodeWord_encode (.seVxNn x nn), decodeWord_encode (.sneVxNn x nn), ?_, ?_⟩
  · exact exec_of_skipIf (exec_seVxNn x nn s) beq_iff_eq.2 beq_eq_false_iff_ne.2
  · exact exec_of_skipIf (exec_sneVxNn x nn s) bne_iff_ne.2 bne_eq_false_iff_eq.2

/-- Settles O28: as with an immediate, and any other low nibble fails the test of the family's one key. -/
theorem skipsOnRegisters : Obligations.SkipsOnRegisters := by
  intro x y s
  refine ⟨decodeWord_encode (.seVxVy x y), decodeWord_encode (.sneVxVy x y), fun n hn => ?_, ?_, ?_⟩
  · exact ⟨decodeWord_wordXY_illegal (.inl rfl) x y hn, decodeWord_wordXY_illegal (.inr rfl) x y hn⟩
  · exact exec_of_skipIf (exec_seVxVy x y s) beq_iff_eq.2 beq_eq_false_iff_ne.2
  · exact exec_of_skipIf (exec_sneVxVy x y s) bne_iff_ne.2 bne_eq_false_iff_eq.2

end Sys2Proof.Proofs.Skip
end

section
/-! SUPPORT. What an instruction does that writes one register and goes on, and the settled statements of
spec/42_immediate.md. -/

namespace Sys2Proof.Machine

/-! ### One register written (spec/42_immediate.md) -/

/-- An instruction that writes `b` to `V[x]` and goes on keeps every other register and every other part of the state. -/
theorem exec_of_setV_advance {i : Instr} {s : State} {x : RegIx} {b : Byte} (h : exec i s = .next (s.setV x b).advance) :
    ∃ t, exec i s = .next t ∧ t.getV x = b ∧ (∀ z, z ≠ x → t.getV z = s.getV z) ∧ t.pc = s.pc + 2 ∧
      onlyChanges [.regs, .pc] s t := by
  refine ⟨_, h, ?_, fun z hz => ?_, rfl, onlyChanges_append (setV_frame s x b) (setPc_frame _ _)⟩
  · rw [advance_eq, setPc_getV, getV_setV, if_pos rfl]
  · rw [advance_eq, setPc_getV, getV_setV_of_ne s b hz]

/-! ### The three values written (spec/42_immediate.md R100 to R102) -/

theorem exec_ldVxNn (x : RegIx) (nn : Byte) (s : State) : exec (.ldVxNn x nn) s = .next (s.setV x nn).advance := rfl

theorem exec_addVxNn (x : RegIx) (nn : Byte) (s : State) :
    exec (.addVxNn x nn) s = .next (s.setV x (s.getV x + nn)).advance := rfl

theorem exec_rndVxNn (x : RegIx) (nn : Byte) (s : State) :
    exec (.rndVxNn x nn) s = .next (s.setV x (s.rnd &&& nn)).advance := rfl

/-- A masked byte is at most its mask (R102). -/
theorem and_mask_le (b mask : Byte) : b &&& mask ≤ mask := by
  rw [BitVec.le_def, BitVec.toNat_and]
  exact Nat.and_le_right

end Sys2Proof.Machine

/-! ### The obligations -/

namespace Sys2Proof.Proofs.Immediate

open Sys2Proof.Machine

/-- Settles O29: LD is one register write, of the immediate. -/
theorem loadImmediate : Obligations.LoadImmediate :=
  fun x nn s => ⟨decodeWord_encode (.ldVxNn x nn), exec_of_setV_advance (exec_ldVxNn x nn s)⟩

/-- Settles O30: ADD is one register write, of a sum of bytes, and that sum is modulo 256. -/
theorem addImmediateWraps : Obligations.AddImmediateWraps := by
  intro x nn s
  obtain ⟨t, hexec, hx, hrest⟩ := exec_of_setV_advance (exec_addVxNn x nn s)
  refine ⟨decodeWord_encode (.addVxNn x nn), t, hexec, ?_, hrest⟩
  rw [hx, BitVec.toNat_add]

/-- Settles O31: RND is one register write, of the input byte under the mask. -/
theorem randomByteIsMasked : Obligations.RandomByteIsMasked := by
  intro x nn s
  obtain ⟨t, hexec, hx, hrest⟩ := exec_of_setV_advance (exec_rndVxNn x nn s)
  refine ⟨decodeWord_encode (.rndVxNn x nn), t, hexec, fun k => ?_, ?_, hrest⟩
  · rw [hx, BitVec.getLsbD_and]
  · rw [hx]
    exact and_mask_le s.rnd nn

end Sys2Proof.Proofs.Immediate
end

section
/-! SUPPORT. What an instruction does that writes a result and then the flag, the five flags as numbers, and the settled
statements of spec/43_alu.md. -/

namespace Sys2Proof.Machine

/-! ### The nine ALU instructions as register writes (spec/43_alu.md R110 to R118) -/

theorem exec_ldVxVy (x y : RegIx) (s : State) : exec (.ldVxVy x y) s = .next (s.setV x (s.getV y)).advance := rfl

theorem exec_orVxVy (x y : RegIx) (s : State) :
    exec (.orVxVy x y) s = .next (s.setV x (s.getV x ||| s.getV y)).advance := rfl

theorem exec_andVxVy (x y : RegIx) (s : State) :
    exec (.andVxVy x y) s = .next (s.setV x (s.getV x &&& s.getV y)).advance := rfl

theorem exec_xorVxVy (x y : RegIx) (s : State) :
    exec (.xorVxVy x y) s = .next (s.setV x (s.getV x ^^^ s.getV y)).advance := rfl

theorem exec_addVxVy (x y : RegIx) (s : State) :
    exec (.addVxVy x y) s =
      .next (s.setResultFlag x (s.getV x + s.getV y) (carryOut (s.getV x) (s.getV y))).advance := rfl

theorem exec_subVxVy (x y : RegIx) (s : State) :
    exec (.subVxVy x y) s =
      .next (s.setResultFlag x (s.getV x - s.getV y) (notBorrow (s.getV x) (s.getV y))).advance := rfl

theorem exec_subnVxVy (x y : RegIx) (s : State) :
    exec (.subnVxVy x y) s =
      .next (s.setResultFlag x (s.getV y - s.getV x) (notBorrow (s.getV y) (s.getV x))).advance := rfl

theorem exec_shrVx (x y : RegIx) (s : State) :
    exec (.shrVx x y) s = .next (s.setResultFlag x (s.getV x >>> 1) (shiftedOutRight (s.getV x))).advance := rfl

theorem exec_shlVx (x y : RegIx) (s : State) :
    exec (.shlVx x y) s = .next (s.setResultFlag x (s.getV x <<< 1) (shiftedOutLeft (s.getV x))).advance := rfl

/-- The `y` field of a right shift does not matter (R69). -/
theorem exec_shrVx_eq (x y y' : RegIx) (s : State) : exec (.shrVx x y') s = exec (.shrVx x y) s :=
  (exec_shrVx x y' s).trans (exec_shrVx x y s).symm

/-- The `y` field of a left shift does not matter (R69). -/
theorem exec_shlVx_eq (x y y' : RegIx) (s : State) : exec (.shlVx x y') s = exec (.shlVx x y) s :=
  (exec_shlVx x y' s).trans (exec_shlVx x y s).symm

/-! ### One register written bit by bit (R111 to R113) -/

/-- `exec_of_setV_advance` for a value given by its bits. -/
theorem exec_of_setV_advance_bits {i : Instr} {s : State} {x : RegIx} {b : Byte} {bit : Nat → Bool}
    (h : exec i s = .next (s.setV x b).advance) (hb : ∀ k, b.getLsbD k = bit k) :
    ∃ t, exec i s = .next t ∧ (∀ k, (t.getV x).getLsbD k = bit k) ∧ (∀ z, z ≠ x → t.getV z = s.getV z) ∧
      t.pc = s.pc + 2 ∧ onlyChanges [.regs, .pc] s t := by
  obtain ⟨t, hexec, hx, hrest⟩ := exec_of_setV_advance h
  exact ⟨t, hexec, fun k => hx ▸ hb k, hrest⟩

/-! ### A result and then the flag (R119) -/

theorem getV_setResultFlag_of_ne_vf (s : State) {x : RegIx} (r : Byte) (c : Bool) (hx : x ≠ vf) :
    (s.setResultFlag x r c).getV x = r := by
  rw [setResultFlag_eq, getV_setV_of_ne _ _ hx, getV_setV, if_pos rfl]

/-- An instruction that writes `r` to `V[x]`, then the flag `c` to VF, and goes on leaves the flag in VF even where `x` is VF,
and keeps every other register and every other part of the state (R119 (d), decision D7). -/
theorem exec_of_setResultFlag_advance {i : Instr} {s : State} {x : RegIx} {r : Byte} {c : Bool}
    (h : exec i s = .next (s.setResultFlag x r c).advance) :
    ∃ t, exec i s = .next t ∧ (x ≠ 15#4 → t.getV x = r) ∧ t.getV 15#4 = flagByte c ∧
      (∀ z, z ≠ x → z ≠ 15#4 → t.getV z = s.getV z) ∧ t.pc = s.pc + 2 ∧ onlyChanges [.regs, .pc] s t :=
  ⟨_, h, getV_setResultFlag_of_ne_vf s r c, getV_vf_setResultFlag s x r c,
    fun _ => getV_setResultFlag_of_ne s r c, rfl,
    onlyChanges_append (setResultFlag_frame s x r c) (setPc_frame _ _)⟩

/-! ### The flag byte of a sum and of a difference (R114, R115, R117) -/

theorem flagByte_carryOut_of_lt {a b : Byte} (h : 255 < a.toNat + b.toNat) : flagByte (carryOut a b) = 1 := by
  rw [carryOut, decide_eq_true h]; rfl

theorem flagByte_carryOut_of_le {a b : Byte} (h : a.toNat + b.toNat ≤ 255) : flagByte (carryOut a b) = 0 := by
  rw [carryOut, decide_eq_false (not_lt.2 h)]; rfl

theorem flagByte_notBorrow_of_le {a b : Byte} (h : b.toNat ≤ a.toNat) : flagByte (notBorrow a b) = 1 := by
  rw [notBorrow, decide_eq_true h]; rfl

theorem flagByte_notBorrow_of_lt {a b : Byte} (h : a.toNat < b.toNat) : flagByte (notBorrow a b) = 0 := by
  rw [notBorrow, decide_eq_false (not_le.2 h)]; rfl

theorem byte_sub_toNat (a b : Byte) : (a - b).toNat = (a.toNat + 256 - b.toNat) % 256 := by
  bv_omega

/-- A difference and its not-borrow, whichever of the two registers is subtracted (R115, R117). -/
theorem exec_of_difference {i : Instr} {s : State} {x : RegIx} {a b : Byte}
    (h : exec i s = .next (s.setResultFlag x (a - b) (notBorrow a b)).advance) :
    ∃ t, exec i s = .next t ∧ (x ≠ 15#4 → (t.getV x).toNat = (a.toNat + 256 - b.toNat) % 256) ∧
      (b.toNat ≤ a.toNat → t.getV 15#4 = 1) ∧ (a.toNat < b.toNat → t.getV 15#4 = 0) ∧
      (∀ z, z ≠ x → z ≠ 15#4 → t.getV z = s.getV z) ∧ t.pc = s.pc + 2 ∧ onlyChanges [.regs, .pc] s t := by
  obtain ⟨t, hexec, hx, hflag, hrest⟩ := exec_of_setResultFlag_advance h
  refine ⟨t, hexec, fun hne => ?_, fun hle => ?_, fun hlt => ?_, hrest⟩
  · rw [hx hne, byte_sub_toNat]
  · rw [hflag, flagByte_notBorrow_of_le hle]
  · rw [hflag, flagByte_notBorrow_of_lt hlt]

/-! ### A shift by one as a number (R116, R118) -/

theorem flagByte_toNat (c : Bool) : (flagByte c).toNat = c.toNat := by
  cases c
  · rfl
  · rfl

theorem shiftedOutRight_toNat (a : Byte) : (shiftedOutRight a).toNat = a.toNat % 2 := by
  rw [shiftedOutRight, BitVec.getLsbD, Nat.toNat_testBit]
  simp

/-- Bit 7 is the only bit of a byte at or above 128. -/
theorem shiftedOutLeft_toNat (a : Byte) : (shiftedOutLeft a).toNat = a.toNat / 128 := by
  rw [shiftedOutLeft, BitVec.getLsbD, Nat.toNat_testBit]
  have := a.isLt
  omega

theorem byte_shiftRight_one_toNat (a : Byte) : (a >>> 1).toNat = a.toNat / 2 := by
  rw [BitVec.toNat_ushiftRight, Nat.shiftRight_one]

theorem byte_shiftLeft_one_toNat (a : Byte) : (a <<< 1).toNat = 2 * a.toNat % 256 := by
  rw [BitVec.toNat_shiftLeft, Nat.shiftLeft_eq, pow_one, mul_comm]

/-- A shift and the bit it moves out, both as numbers. -/
theorem exec_of_shift {i : Instr} {s : State} {x : RegIx} {r : Byte} {c : Bool} {result bit : Nat}
    (h : exec i s = .next (s.setResultFlag x r c).advance) (hr : r.toNat = result) (hc : c.toNat = bit) :
    ∃ t, exec i s = .next t ∧ (x ≠ 15#4 → (t.getV x).toNat = result) ∧ (t.getV 15#4).toNat = bit ∧
      (∀ z, z ≠ x → z ≠ 15#4 → t.getV z = s.getV z) ∧ t.pc = s.pc + 2 ∧ onlyChanges [.regs, .pc] s t := by
  obtain ⟨t, hexec, hx, hflag, hrest⟩ := exec_of_setResultFlag_advance h
  refine ⟨t, hexec, fun hne => ?_, ?_, hrest⟩
  · rw [hx hne, hr]
  · rw [hflag, flagByte_toNat, hc]

end Sys2Proof.Machine

/-! ### The obligations -/

namespace Sys2Proof.Proofs.Alu

open Sys2Proof.Machine

/-- Settles O32: each is one register write, so VF changes only as `V[x]` itself. -/
theorem moveAndLogic : Obligations.MoveAndLogic := by
  intro x y s
  refine ⟨⟨decodeWord_encode (.ldVxVy x y), ?_⟩, ⟨decodeWord_encode (.orVxVy x y), ?_⟩,
    ⟨decodeWord_encode (.andVxVy x y), ?_⟩, ⟨decodeWord_encode (.xorVxVy x y), ?_⟩⟩
  · exact exec_of_setV_advance (exec_ldVxVy x y s)
  · exact exec_of_setV_advance_bits (exec_orVxVy x y s) fun _ => BitVec.getLsbD_or
  · exact exec_of_setV_advance_bits (exec_andVxVy x y s) fun _ => BitVec.getLsbD_and
  · exact exec_of_setV_advance_bits (exec_xorVxVy x y s) fun _ => BitVec.getLsbD_xor

/-- Settles O33: the sum of two bytes is modulo 256, and the carry of the operands read before it is written last. -/
theorem addRegistersSetsCarry : Obligations.AddRegistersSetsCarry := by
  intro x y s
  obtain ⟨t, hexec, hx, hflag, hrest⟩ := exec_of_setResultFlag_advance (exec_addVxVy x y s)
  refine ⟨decodeWord_encode (.addVxVy x y), t, hexec, fun hne => ?_, fun hlt => ?_, fun hle => ?_, hrest⟩
  · rw [hx hne, BitVec.toNat_add]
  · rw [hflag, flagByte_carryOut_of_lt hlt]
  · rw [hflag, flagByte_carryOut_of_le hle]

/-- Settles O34: SUB and SUBN are one difference with the operands swapped. -/
theorem subtractSetsNotBorrow : Obligations.SubtractSetsNotBorrow :=
  fun x y s => ⟨⟨decodeWord_encode (.subVxVy x y), exec_of_difference (exec_subVxVy x y s)⟩,
    ⟨decodeWord_encode (.subnVxVy x y), exec_of_difference (exec_subnVxVy x y s)⟩⟩

/-- Settles O35: the shifted byte and the bit moved out are the quotient and the remainder at that end of the byte. -/
theorem shiftsMoveOneBitIntoFlag : Obligations.ShiftsMoveOneBitIntoFlag := by
  intro x y s
  refine ⟨⟨decodeWord_encode (.shrVx x y), fun y' => exec_shrVx_eq x y y' s, ?_⟩,
    ⟨decodeWord_encode (.shlVx x y), fun y' => exec_shlVx_eq x y y' s, ?_⟩⟩
  · exact exec_of_shift (exec_shrVx x y s) (byte_shiftRight_one_toNat _) (shiftedOutRight_toNat _)
  · exact exec_of_shift (exec_shlVx x y s) (byte_shiftLeft_one_toNat _) (shiftedOutLeft_toNat _)

end Sys2Proof.Proofs.Alu
end

section
/-! SUPPORT. What an instruction does that writes `I` or stores bytes at the effective addresses and goes on, the bytes of `Fx33`,
`Fx55` and `Fx65` by number, and the settled statements of spec/44_index_memory.md. -/

namespace Sys2Proof.Machine

/-! ### The six instructions as writes (spec/44_index_memory.md R120 to R125) -/

theorem exec_ldINnn (nnn : Addr) (s : State) : exec (.ldINnn nnn) s = .next (s.setI (nnn.setWidth 16)).advance := rfl

theorem exec_addIVx (x : RegIx) (s : State) :
    exec (.addIVx x) s = .next (s.setI (s.i + (s.getV x).setWidth 16)).advance := rfl

theorem exec_ldFVx (x : RegIx) (s : State) : exec (.ldFVx x) s = .next (s.setI (glyphAddress (s.getV x))).advance := rfl

theorem exec_ldBVx (x : RegIx) (s : State) :
    exec (.ldBVx x) s = .next (s.storeBytes 0 (decimalDigits (s.getV x))).advance := rfl

theorem exec_ldMemVx (x : RegIx) (s : State) : exec (.ldMemVx x) s = .next (s.storeBytes 0 (s.regsUpTo x)).advance := rfl

theorem exec_ldVxMem (x : RegIx) (s : State) :
    exec (.ldVxMem x) s = .next (s.setRegs 0 (s.loadBytes (x.toNat + 1))).advance := rfl

/-! ### `I` written (R120 to R122) -/

/-- An instruction that writes `w` to `I` and goes on keeps every other part of the state. -/
theorem exec_of_setI_advance {i : Instr} {s : State} {w : Word} {n : Nat} (h : exec i s = .next (s.setI w).advance)
    (hw : w.toNat = n) :
    ∃ t, exec i s = .next t ∧ t.i.toNat = n ∧ t.pc = s.pc + 2 ∧ onlyChanges [.index, .pc] s t :=
  ⟨_, h, hw, rfl, onlyChanges_append (setI_frame s w) (setPc_frame _ _)⟩

/-- `I` plus a byte wraps at 65536 and not at the end of memory (decision D8). -/
theorem word_add_byte_toNat (w : Word) (b : Byte) : (w + b.setWidth 16).toNat = (w.toNat + b.toNat) % 65536 := by
  rw [BitVec.toNat_add, BitVec.toNat_setWidth_of_le (by decide)]

/-! ### Bytes stored from `EA(0)` on (R123, R124) -/

theorem storeBytes_pc (s : State) (k : Nat) (bs : List Byte) : (s.storeBytes k bs).pc = s.pc :=
  storeBytes_frame s k bs .pc (by decide)

/-- An instruction that stores a list of bytes from `EA(0)` on and goes on puts byte `j` at `EA(j)`, and keeps every other byte
of memory and every other part of the state; up to 4096 bytes no address is met twice. -/
theorem exec_of_storeBytes_advance {i : Instr} {s : State} {bs : List Byte}
    (h : exec i s = .next (s.storeBytes 0 bs).advance) (hlen : bs.length ≤ 4096) :
    ∃ t, exec i s = .next t ∧ (∀ j (hj : j < bs.length), t.readByte (s.ea j) = bs[j]) ∧
      (∀ a, (∀ j, j < bs.length → a ≠ s.ea j) → t.readByte a = s.readByte a) ∧ t.pc = s.pc + 2 ∧
      onlyChanges [.memory, .pc] s t := by
  refine ⟨_, h, fun j hj => ?_, fun a ha => ?_, ?_, onlyChanges_append (storeBytes_frame s 0 bs) (setPc_frame _ _)⟩
  · have hstored := readByte_storeBytes s 0 bs (by omega) j hj
    rwa [Nat.zero_add] at hstored
  · exact readByte_storeBytes_other s 0 bs a fun j hj => by rw [Nat.zero_add]; exact ha j hj
  · rw [advance_eq, setPc_pc, storeBytes_pc]

@[simp] theorem length_decimalDigits (b : Byte) : (decimalDigits b).length = 3 := rfl

/-- No decimal digit of a byte is above the byte, so each fits a byte. -/
theorem byte_ofNat_toNat_of_le {b : Byte} {n : Nat} (h : n ≤ b.toNat) : (BitVec.ofNat 8 n).toNat = n := by
  rw [BitVec.toNat_ofNat, Nat.mod_eq_of_lt (h.trans_lt b.isLt)]

theorem decimalDigits_hundreds_toNat (b : Byte) : (decimalDigits b)[0].toNat = b.toNat / 100 :=
  byte_ofNat_toNat_of_le (Nat.div_le_self _ _)

theorem decimalDigits_tens_toNat (b : Byte) : (decimalDigits b)[1].toNat = b.toNat / 10 % 10 :=
  byte_ofNat_toNat_of_le ((Nat.mod_le _ _).trans (Nat.div_le_self _ _))

theorem decimalDigits_ones_toNat (b : Byte) : (decimalDigits b)[2].toNat = b.toNat % 10 :=
  byte_ofNat_toNat_of_le (Nat.mod_le _ _)

/-! ### Registers loaded from `EA(0)` on (R125) -/

theorem setRegs_pc (s : State) (k : Nat) (bs : List Byte) : (s.setRegs k bs).pc = s.pc :=
  setRegs_frame s k bs .pc (by decide)

/-- `Fx65` puts the byte at `EA(z)` in `V[z]`, for `z` up to `x`. -/
theorem getV_setRegs_loadBytes_of_le (s : State) {x z : RegIx} (hz : z.toNat ≤ x.toNat) :
    (s.setRegs 0 (s.loadBytes (x.toNat + 1))).getV z = s.readByte (s.ea z.toNat) := by
  have hlen : (s.loadBytes (x.toNat + 1)).length = x.toNat + 1 := length_loadBytes s _
  have hx := x.isLt
  rw [getV_setRegs _ _ _ (by omega), dif_pos (by omega), getElem_loadBytes, Nat.sub_zero]

end Sys2Proof.Machine

/-! ### The obligations -/

namespace Sys2Proof.Proofs.IndexMemory

open Sys2Proof.Machine

/-- Settles O40: the store is of three bytes, and each is a digit that fits a byte. -/
theorem storeDecimalDigits : Obligations.StoreDecimalDigits := by
  intro x s
  obtain ⟨t, hexec, hstored, hother, hrest⟩ := exec_of_storeBytes_advance (exec_ldBVx x s) (by simp)
  refine ⟨decodeWord_encode (.ldBVx x), t, hexec, ?_, ?_, ?_, fun a h0 h1 h2 => hother a fun j hj => ?_, hrest⟩
  · rw [hstored 0 (by simp), decimalDigits_hundreds_toNat]
  · rw [hstored 1 (by simp), decimalDigits_tens_toNat]
  · rw [hstored 2 (by simp), decimalDigits_ones_toNat]
  · rw [length_decimalDigits] at hj
    obtain rfl | rfl | rfl : j = 0 ∨ j = 1 ∨ j = 2 := by omega
    · exact h0
    · exact h1
    · exact h2

/-- Settles O41: byte `k` of the stored list is `V[k]`, and the list ends with `V[x]`. -/
theorem storeRegisterRange : Obligations.StoreRegisterRange := by
  intro x s
  have hlen : (s.regsUpTo x).length = x.toNat + 1 := length_regsUpTo s x
  have hx := x.isLt
  obtain ⟨t, hexec, hstored, hother, hrest⟩ := exec_of_storeBytes_advance (exec_ldMemVx x s) (by omega)
  refine ⟨decodeWord_encode (.ldMemVx x), t, hexec, fun z hz => ?_, fun a ha => hother a fun j hj => ha j ?_, hrest⟩
  · rw [hstored z.toNat (by omega), getElem_regsUpTo, BitVec.ofNat_toNat, BitVec.setWidth_eq]
  · omega

/-- Settles O42: the loaded list is written to `V[0]` to `V[x]`, and `EA` is that of the state before the write. -/
theorem loadRegisterRange : Obligations.LoadRegisterRange := by
  intro x s
  refine ⟨decodeWord_encode (.ldVxMem x), _, exec_ldVxMem x s, fun z => getV_setRegs_loadBytes_of_le s,
    fun z => getV_setRegs_loadBytes_of_lt s, ?_, onlyChanges_append (setRegs_frame s _ _) (setPc_frame _ _)⟩
  rw [advance_eq, setPc_pc, setRegs_pc]

/-- Settles O36: LD writes `I` only, and zero extension keeps the number. -/
theorem loadIndex : Obligations.LoadIndex :=
  fun nnn s => ⟨decodeWord_encode (.ldINnn nnn),
    exec_of_setI_advance (exec_ldINnn nnn s) (BitVec.toNat_setWidth_of_le (by decide))⟩

/-- Settles O37: ADD writes `I` only, with the 16-bit sum. -/
theorem addToIndexWrapsAt65536 : Obligations.AddToIndexWrapsAt65536 :=
  fun x s => ⟨decodeWord_encode (.addIVx x), exec_of_setI_advance (exec_addIVx x s) (word_add_byte_toNat s.i (s.getV x))⟩

/-- Settles O38: LD F writes `I` only, and no glyph address wraps. -/
theorem glyphAddressIsFiveTimesDigit : Obligations.GlyphAddressIsFiveTimesDigit :=
  fun x s => ⟨decodeWord_encode (.ldFVx x), exec_of_setI_advance (exec_ldFVx x s) (glyphAddress_toNat (s.getV x))⟩

end Sys2Proof.Proofs.IndexMemory
end

section
/-! SUPPORT. What CLS and DRW leave on the screen and in VF, the pixels a sprite covers in states that agree on what DRW reads, and
the settled statements of spec/45_display.md. -/

namespace Sys2Proof.Machine

/-! ### The two display instructions as writes (spec/45_display.md R130, R131) -/

theorem exec_cls (s : State) : exec .cls s = .next (s.setFb fbClear).advance := rfl

theorem exec_drw (x y : RegIx) (n : Nibble) (s : State) :
    exec (.drw x y n) s = .next ((s.setFb (s.drawn x y n).1).setV vf (flagByte (s.drawn x y n).2)).advance := rfl

/-! ### What a DRW blits, by the pixels its sprite covers (R131, R132) -/

/-- A sprite has at most 15 rows, so no two of them meet (R132 (d)). -/
theorem length_spriteBytes_le (s : State) (n : Nibble) : (s.loadBytes n.toNat).length ≤ 32 := by
  have hn := n.isLt
  rw [length_loadBytes]
  omega

theorem fbPixel_drawn_of_covers {s : State} {x y : RegIx} {n : Nibble} {p : Pixel} (h : s.spriteCovers x y n p) :
    fbPixel (s.drawn x y n).1 p = !s.pixel p := by
  have hmem := (mem_spritePixels_iff s x y n p).2 h
  rw [State.drawn, fbPixel_blit _ _ _ (length_spriteBytes_le s n), decide_eq_true hmem, Bool.xor_true, State.pixel]

theorem fbPixel_drawn_of_not_covers {s : State} {x y : RegIx} {n : Nibble} {p : Pixel} (h : ¬ s.spriteCovers x y n p) :
    fbPixel (s.drawn x y n).1 p = s.pixel p := by
  have hmem := mt (mem_spritePixels_iff s x y n p).1 h
  rw [State.drawn, fbPixel_blit _ _ _ (length_spriteBytes_le s n), decide_eq_false hmem, Bool.xor_false, State.pixel]

/-- The collision flag: some pixel the sprite covers was on (R132 (c)). -/
theorem drawn_hit_iff (s : State) (x y : RegIx) (n : Nibble) :
    (s.drawn x y n).2 = true ↔ ∃ p, s.spriteCovers x y n p ∧ s.pixel p = true := by
  rw [State.drawn, hit_blit _ _ _ (length_spriteBytes_le s n), List.any_eq_true]
  exact exists_congr fun p => and_congr_left' (mem_spritePixels_iff s x y n p)

/-- Which pixels a sprite covers is read from `V[x]`, `V[y]`, `I` and memory only: not from the screen, and from VF only where `x`
or `y` is VF (R131 (b)). -/
theorem spriteCovers_iff_of_frame {s t : State} {x y : RegIx} (hframe : onlyChanges [.screen, .regs, .pc] s t)
    (hx : t.getV x = s.getV x) (hy : t.getV y = s.getV y) (n : Nibble) (p : Pixel) :
    t.spriteCovers x y n p ↔ s.spriteCovers x y n p := by
  have hi : t.i = s.i := hframe .index (by decide)
  have hmem : ∀ a, t.readByte a = s.readByte a := hframe .memory (by decide)
  simp only [State.spriteCovers, State.ea, hx, hy, hi, hmem]

end Sys2Proof.Machine

/-! ### The obligations -/

namespace Sys2Proof.Proofs.Display

open Sys2Proof.Machine

/-- Settles O18: DRW writes the blitted framebuffer, whose covered pixels are inverted, and then the collision flag. -/
theorem drawSprite : Obligations.DrawSprite := by
  intro x y n s
  have hflag : (s.setV vf (flagByte (s.drawn x y n).2)).getV 15#4 = flagByte (s.drawn x y n).2 :=
    (getV_setV s vf vf _).trans (if_pos rfl)
  refine ⟨decodeWord_encode (.drw x y n), _, exec_drw x y n s, fun p => fbPixel_drawn_of_covers,
    fun p => fbPixel_drawn_of_not_covers, fun hon => hflag.trans ?_, fun hoff => hflag.trans ?_,
    fun z => getV_setV_of_ne _ _, rfl, exec_frame (exec_drw x y n s)⟩
  · rw [(drawn_hit_iff s x y n).2 hon]; rfl
  · rw [Bool.eq_false_iff.2 (mt (drawn_hit_iff s x y n).1 hoff)]; rfl

/-- Settles O19: the first draw moves neither the origin nor the sprite, so the second covers the same pixels and inverts each back. -/
theorem drawingTwiceCancels : Obligations.DrawingTwiceCancels := by
  intro x y n s hx hy
  obtain ⟨-, t, ht, hinv, hkeep, -, hmiss, hregs, -, hframe⟩ := drawSprite x y n s
  obtain ⟨-, u, hu, hinv', hkeep', hhit', -⟩ := drawSprite x y n t
  have hcovers := spriteCovers_iff_of_frame hframe (hregs x hx) (hregs y hy) n
  refine ⟨t, u, ht, hu, fun p => ?_, fun hclear => ⟨hmiss ?_, ?_⟩⟩
  · by_cases hp : s.spriteCovers x y n p
    · rw [hinv' p ((hcovers p).2 hp), hinv p hp, Bool.not_not]
    · rw [hkeep' p (mt (hcovers p).1 hp), hkeep p hp]
  · rintro ⟨p, -, hon⟩
    exact Bool.false_ne_true ((hclear p).symm.trans hon)
  · rintro ⟨p, hp⟩
    exact hhit' ⟨p, (hcovers p).2 hp, by rw [hinv p hp, hclear p, Bool.not_false]⟩

/-- Settles O17: CLS writes the clear framebuffer and then `pc`. -/
theorem clearScreen : Obligations.ClearScreen :=
  ⟨decodeWord_encode .cls, fun s => ⟨_, exec_cls s, fbPixel_clear, rfl, exec_frame (exec_cls s)⟩⟩

end Sys2Proof.Proofs.Display
end

section
/-! SUPPORT. The tests of the two key skips, the writes of the timer accesses, the two outcomes of a look at the keys, and the settled
statements of spec/46_keys_timers.md. -/

namespace Sys2Proof.Machine

/-! ### The key skips as skips on a bit of `key` (spec/46_keys_timers.md R140, R141) -/

theorem keyNumber_toNat (b : Byte) : (keyNumber b).toNat = b.toNat % 16 := by
  simp [keyNumber, BitVec.extractLsb'_toNat]

/-- The key that `V[x]` names is the one of its low nibble (decision D12). -/
theorem keyPressed_keyNumber (s : State) (b : Byte) : s.keyPressed (keyNumber b) = s.key.getLsbD (b.toNat % 16) := by
  rw [State.keyPressed, keyNumber_toNat]

theorem exec_skp (x : RegIx) (s : State) :
    exec (.skp x) s = .next (s.skipIf (s.keyPressed (keyNumber (s.getV x)))) := rfl

theorem exec_sknp (x : RegIx) (s : State) :
    exec (.sknp x) s = .next (s.skipIf (!s.keyPressed (keyNumber (s.getV x)))) := rfl

/-! ### The timer accesses as writes (spec/46_keys_timers.md R142, R144, R145) -/

theorem exec_ldVxDt (x : RegIx) (s : State) : exec (.ldVxDt x) s = .next (s.setV x s.dt).advance := rfl

theorem exec_ldDtVx (x : RegIx) (s : State) : exec (.ldDtVx x) s = .next (s.setDt (s.getV x)).advance := rfl

theorem exec_ldStVx (x : RegIx) (s : State) : exec (.ldStVx x) s = .next (s.setSt (s.getV x)).advance := rfl

/-- The sound line is 1 exactly while `ST` is not 0 (spec/10_state.md R26). -/
theorem soundOut_eq_true_iff (s : State) : s.soundOut = true ↔ s.st ≠ 0 := bne_iff_ne

/-! ### The wait begins and ends (spec/46_keys_timers.md R143, R146) -/

theorem exec_ldVxK (x : RegIx) (s : State) :
    exec (.ldVxK x) s = .next { s with waitX := x, mode := .awaitingKey } := rfl

theorem setMode_frame (s : State) (m : Mode) : onlyChanges [.wait] s { s with mode := m } := by
  intro p hp
  cases p <;> simp_all [Part.same, State.getV, State.stkAt, State.pixel, State.readByte]

theorem endWait_frame (s : State) (k : Nibble) : onlyChanges [.regs, .pc, .wait] s (s.endWait k) :=
  onlyChanges_append (onlyChanges_append (setV_frame s _ _) (setPc_frame _ _)) (setMode_frame _ _)

theorem endWait_getV (s : State) (k : Nibble) (z : RegIx) :
    (s.endWait k).getV z = (s.setV s.waitX (k.setWidth 8)).getV z := rfl

/-- The waiting register gets the number of the delivered key. -/
theorem endWait_getV_waitX_toNat (s : State) (k : Nibble) : ((s.endWait k).getV s.waitX).toNat = k.toNat := by
  rw [endWait_getV, getV_setV, if_pos rfl, BitVec.toNat_setWidth_of_le (by decide)]

theorem endWait_getV_of_ne (s : State) (k : Nibble) {z : RegIx} (hz : z ≠ s.waitX) :
    (s.endWait k).getV z = s.getV z := by
  rw [endWait_getV, getV_setV_of_ne s _ hz]

theorem awaitStep_of_no_key {s : State} (h : s.key = 0) : awaitStep s = s := if_pos h

theorem awaitStep_of_key {s : State} (h : s.key ≠ 0) : awaitStep s = s.endWait (keyPick s.key s.pick) := if_neg h

/-- A key that is pressed keeps the key input from being zero. -/
theorem key_ne_zero_of_pressed {key : Word} {k : Nibble} (h : key.getLsbD k.toNat = true) : key ≠ 0 := by
  rintro rfl
  simp at h

end Sys2Proof.Machine

/-! ### The obligations -/

namespace Sys2Proof.Proofs.KeysTimers

open Sys2Proof.Machine

/-- Settles O46: SKP is a skip on the level of the key that the low nibble numbers, SKNP on its negation. -/
theorem keySkips : Obligations.KeySkips := by
  intro x s
  have hkey := keyPressed_keyNumber s (s.getV x)
  refine ⟨decodeWord_encode (.skp x), decodeWord_encode (.sknp x), ?_, ?_⟩
  · exact exec_of_skipIf (exec_skp x s) hkey.trans hkey.trans
  · exact exec_of_skipIf (exec_sknp x s) (fun hoff => by rw [hkey, hoff, Bool.not_false])
      (fun hon => by rw [hkey, hon, Bool.not_true])

/-- Settles O47: each is one write, of a register or of a timer, and the sound line reads the timer just written. -/
theorem timerAccesses : Obligations.TimerAccesses := by
  intro x s
  refine ⟨⟨decodeWord_encode (.ldVxDt x), exec_of_setV_advance (exec_ldVxDt x s)⟩, ⟨decodeWord_encode (.ldDtVx x), ?_⟩,
    ⟨decodeWord_encode (.ldStVx x), ?_⟩⟩
  · exact ⟨_, exec_ldDtVx x s, rfl, rfl, exec_frame (exec_ldDtVx x s)⟩
  · exact ⟨_, exec_ldStVx x s, rfl, soundOut_eq_true_iff _, rfl, exec_frame (exec_ldStVx x s)⟩

/-- Settles O49: the step is one look at the keys, and the key it delivers is a pressed one. -/
theorem waitingStep : Obligations.WaitingStep := by
  intro s hm
  refine ⟨step_of_no_ticksDue, _, cycle_of_awaitingKey hm, awaitStep_of_no_key, fun hkey => ?_⟩
  rw [awaitStep_of_key hkey]
  exact ⟨⟨_, keyPick_pressed hkey s.pick, endWait_getV_waitX_toNat s _⟩, fun _ => endWait_getV_of_ne s _, rfl, rfl, rfl,
    endWait_frame s _⟩

/-- Settles O50: some draw points at the key in the list of the pressed ones, and the wait ends with that key. -/
theorem everyPressedKeyMayBePicked : Obligations.EveryPressedKeyMayBePicked := by
  intro s k hk
  obtain ⟨pick, hpick⟩ := keyPick_surjective hk
  refine ⟨pick, ?_⟩
  rw [awaitStep_of_key (s := s.latch s.key s.rnd pick) (key_ne_zero_of_pressed hk), latch_key, latch_pick, hpick]
  exact endWait_getV_waitX_toNat (s.latch s.key s.rnd pick) k

/-- Settles O51: of the cases of a step a waiting core has the Tick and the look at the keys, and without a pressed key that look
leaves the state, and so the wait, as it was. -/
theorem waitEndsOnlyByKey : Obligations.WaitEndsOnlyByKey := by
  intro s t hm
  refine ⟨fun hstep => ?_, ?_, fun hcycle hrun hkey => ?_⟩
  · obtain ⟨-, ⟨-, htick⟩ | ⟨-, -, rfl⟩ | ⟨-, hrun, -⟩ | ⟨-, hrun, -⟩⟩ := step_cases hstep
    · exact .inl htick
    · exact .inr (cycle_of_awaitingKey (s := s.sample) hm)
    · cases hm.symm.trans hrun
    · cases hm.symm.trans hrun
  · obtain ⟨hmode, -⟩ := tickStep_frame s .wait (by decide)
    exact hmode.trans hm
  · rw [cycle_of_awaitingKey hm, awaitStep_of_no_key hkey] at hcycle
    cases hcycle
    cases hm.symm.trans hrun

/-- Settles O48: the instruction writes the two fields of the wait and nothing else. -/
theorem keyReadStartsTheWait : Obligations.KeyReadStartsTheWait :=
  fun x s => ⟨decodeWord_encode (.ldVxK x), _, exec_ldVxK x s, rfl, rfl, rfl, rfl, exec_frame (exec_ldVxK x s)⟩

end Sys2Proof.Proofs.KeysTimers
end

section
/-! SUPPORT. What a step can do to the fault record and to the timers, and the settled statements of spec/60_exceptions.md. -/

namespace Sys2Proof.Machine

/-! ### Entering a fault (spec/60_exceptions.md R150 to R158) -/

/-- `t` is the fault entry at `s`, before any write of the instruction, with a kind and a word that fit. -/
def EntersFault (s t : State) : Prop := ∃ k op, t = s.raise k s.pc op ∧ t.faultFits

/-- RET writes no part of the record unless the stack is empty. -/
theorem execRet_fault_cases {s t : State} (hf : s.fetchWord = some (encode .ret)) (h : execRet s = .next t) :
    Part.same s t .fault ∨ EntersFault s t := by
  obtain ⟨hempty, hp⟩ | ⟨_, -, hp⟩ := pop_cases s
  · cases (execRet_of_empty hp).symm.trans h
    exact .inr ⟨.stackUnderflow, _, rfl, hempty, hf, decodeWord_encode .ret⟩
  · cases (execRet_of_pop hp).symm.trans h
    exact .inl (pop_setPc_frame hp _ .fault (by decide))

/-- CALL writes no part of the record unless the stack is full. -/
theorem execCall_fault_cases {nnn : Addr} {s t : State} (hf : s.fetchWord = some (encode (.call nnn)))
    (h : execCall nnn s = .next t) : Part.same s t .fault ∨ EntersFault s t := by
  obtain ⟨hfull, hp⟩ | ⟨_, hp⟩ := push_cases s (s.pc + 2)
  · cases (execCall_of_full nnn hp).symm.trans h
    exact .inr ⟨.stackOverflow, _, rfl, hfull, hf, nnn, decodeWord_encode (.call nnn)⟩
  · cases (execCall_of_push nnn hp).symm.trans h
    exact .inl (push_setPc_frame hp _ .fault (by decide))

/-- RET and CALL alone have the record among the parts they write. -/
theorem exec_fault_cases {i : Instr} {s t : State} (hf : s.fetchWord = some (encode i)) (h : exec i s = .next t) :
    Part.same s t .fault ∨ EntersFault s t := by
  cases i with
  | ret => exact execRet_fault_cases hf h
  | call nnn => exact execCall_fault_cases hf h
  | _ => exact .inl (exec_frame h .fault (by simp [partsWritten]))

theorem runWord_fault_cases {op : Word} {s t : State} (hf : s.fetchWord = some op) (h : runWord op s = .next t) :
    Part.same s t .fault ∨ EntersFault s t := by
  obtain ⟨i, hd, hexec⟩ | ⟨e, hd, rfl⟩ := runWord_cases h
  · exact exec_fault_cases (by rw [encode_of_decodeWord hd, hf]) hexec
  · obtain rfl := unusedSubOpcode_of_decodeWord_error hd
    exact .inr ⟨.unusedSubOpcode, op, rfl, hf, legalWord_eq_false_iff.2 hd⟩

theorem onlyChanges_refl (ps : List Part) (s : State) : onlyChanges ps s s :=
  fun p _ => by cases p <;> simp [Part.same]

theorem awaitStep_frame (s : State) : onlyChanges [.regs, .pc, .wait] s (awaitStep s) := by
  unfold awaitStep
  split
  · exact onlyChanges_refl _ s
  · exact endWait_frame s _

theorem pc_toNat_of_no_fetch {s : State} (hf : s.fetchWord = none) : 0xFFE < s.pc.toNat := by
  have hbound := fetchWord_isSome_iff s
  simp only [hf, Option.isSome_none, Bool.false_eq_true, false_iff] at hbound
  omega

/-- Everything a step can do to the fault record: nothing, or the entry into a fault that fits, from a running core. -/
theorem step_fault_cases {s t : State} (h : step s = .next t) :
    Part.same s t .fault ∨ (s.mode = .running ∧ EntersFault s.sample t) := by
  obtain ⟨-, ⟨-, rfl⟩ | ⟨-, -, rfl⟩ | ⟨-, hm, hf, rfl⟩ | ⟨-, hm, op, hf, hrun⟩⟩ := step_cases h
  · exact .inl (tickStep_frame s .fault (by decide))
  · exact .inl (awaitStep_frame s.sample .fault (by decide))
  · exact .inr ⟨hm, .pcOutOfBounds, 0, rfl, pc_toNat_of_no_fetch hf, rfl⟩
  · exact (runWord_fault_cases (s := s.sample) hf hrun).imp id (⟨hm, ·⟩)

theorem entersFault_recordTruthful {s t : State} (hm : s.mode = .running) (h : EntersFault s t) : t.recordTruthful := by
  obtain ⟨k, op, rfl, hfits⟩ := h
  exact ⟨nofun, fun _ => ⟨hm, rfl, hfits⟩⟩

/-- While the machine is not halted, a step that keeps the record keeps it zero. -/
theorem recordTruthful_of_same {s t : State} (hs : s.recordTruthful) (hh : s.halt = false) (h : Part.same s t .fault) :
    t.recordTruthful := by
  obtain ⟨hhalt, hkind, hpc, hop⟩ := h
  obtain ⟨hzero, -⟩ := hs
  refine ⟨fun _ => ?_, fun ht => ?_⟩
  · rw [hkind, hpc, hop]
    exact hzero hh
  · cases ht.symm.trans (hhalt.trans hh)

theorem step_recordTruthful {s t : State} (hs : s.recordTruthful) (h : step s = .next t) : t.recordTruthful := by
  obtain ⟨hh, -⟩ := step_cases h
  obtain hsame | ⟨hm, henters⟩ := step_fault_cases h
  · exact recordTruthful_of_same hs hh hsame
  · exact entersFault_recordTruthful (s := s.sample) hm henters

/-- The kinds that fit some state are the four that are raised (R155). -/
theorem faultKind_of_faultFits {s : State} (h : s.faultFits) :
    s.faultKind = .pcOutOfBounds ∨ s.faultKind = .stackOverflow ∨ s.faultKind = .stackUnderflow ∨
      s.faultKind = .unusedSubOpcode := by
  unfold State.faultFits at h
  cases hk : s.faultKind <;> simp_all

/-! ### The timers (spec/60_exceptions.md R160 to R162) -/

theorem tick_of_not_halt {s : State} (hh : s.halt = false) : s.tick = (s.setDt (tickDown s.dt)).setSt (tickDown s.st) :=
  if_neg (by simp [hh])

@[simp] theorem tick_halt (s : State) : s.tick.halt = s.halt := by
  unfold State.tick
  split <;> rfl

theorem tick_dt_toNat {s : State} (hh : s.halt = false) : s.tick.dt.toNat = s.dt.toNat - 1 := by
  rw [tick_of_not_halt hh]
  exact tickDown_toNat s.dt

theorem tick_st_toNat {s : State} (hh : s.halt = false) : s.tick.st.toNat = s.st.toNat - 1 := by
  rw [tick_of_not_halt hh]
  exact tickDown_toNat s.st

theorem tick_frame {s : State} (hh : s.halt = false) : onlyChanges [.delay, .sound] s s.tick := by
  rw [tick_of_not_halt hh]
  exact onlyChanges_append (setDt_frame s _) (setSt_frame _ _)

/-- Ticks halt nothing, so each of them lowers both timers. -/
theorem iterate_tick {s : State} (hh : s.halt = false) (n : Nat) :
    (State.tick^[n] s).halt = false ∧ (State.tick^[n] s).dt.toNat = s.dt.toNat - n ∧
      (State.tick^[n] s).st.toNat = s.st.toNat - n := by
  induction n with
  | zero => exact ⟨hh, rfl, rfl⟩
  | succ n ih =>
    obtain ⟨hhn, hdt, hst⟩ := ih
    rw [Function.iterate_succ_apply', tick_halt, tick_dt_toNat hhn, tick_st_toNat hhn, hdt, hst]
    exact ⟨hhn, Nat.sub_sub .., Nat.sub_sub ..⟩

theorem tickStep_dt_toNat {s : State} (hh : s.halt = false) : s.tickStep.dt.toNat = s.dt.toNat - 1 := tick_dt_toNat hh

/-- `Fx15` alone has `DT` among the parts it writes (spec/10_state.md R25). -/
theorem exec_dt_cases {i : Instr} {s t : State} (h : exec i s = .next t) : t.dt = s.dt ∨ ∃ x, i = .ldDtVx x := by
  cases i with
  | ldDtVx x => exact .inr ⟨x, rfl⟩
  | _ => exact .inl (exec_frame h .delay (by simp [partsWritten]))

theorem runWord_dt_cases {op : Word} {s t : State} (h : runWord op s = .next t) :
    t.dt = s.dt ∨ ∃ x, decodeWord op = .ok (.ldDtVx x) := by
  obtain ⟨i, hd, hexec⟩ | ⟨e, -, rfl⟩ := runWord_cases h
  · exact (exec_dt_cases hexec).imp id fun ⟨x, hi⟩ => ⟨x, hi ▸ hd⟩
  · exact .inl (raise_dt ..)

end Sys2Proof.Machine

/-! ### The obligations -/

namespace Sys2Proof.Proofs.Exceptions

open Sys2Proof.Machine

/-- Settles O57: a step leaves the record as it is or enters a fault that fits, and a fault entry keeps the mode, `pc`, the depth and
memory, which the record speaks of. -/
theorem faultRecordStaysTruthful : Obligations.FaultRecordStaysTruthful := fun _ _ => step_recordTruthful

/-- Settles O12: only a fault entry raises HALT, and it is made on the sampled state before any write. -/
theorem faultsArePrecise : Obligations.FaultsArePrecise := by
  intro s t hh hstep ht
  obtain ⟨hhalt, -⟩ | ⟨-, k, op, rfl, hfits⟩ := step_fault_cases hstep
  · cases ht.symm.trans (hhalt.trans hh)
  · exact ⟨sample_raise_frame s _ _ _, rfl, faultKind_of_faultFits hfits⟩

/-- Settles O15, by induction on the number of ticks. -/
theorem ticksCountDownToZero : Obligations.TicksCountDownToZero := by
  intro s n hh
  obtain ⟨-, htimers⟩ := iterate_tick hh n
  exact htimers

/-- Settles O16: a Tick lowers DT, and of the other cases of a step only an executed `Fx15` writes it. -/
theorem delayTimerRisesOnlyByItsWrite : Obligations.DelayTimerRisesOnlyByItsWrite := by
  intro s t hstep hrise
  obtain ⟨hh, ⟨-, rfl⟩ | ⟨-, -, rfl⟩ | ⟨-, -, -, rfl⟩ | ⟨ht, hm, op, hf, hrun⟩⟩ := step_cases hstep
  · have := tickStep_dt_toNat hh
    omega
  · have hsame : (awaitStep s.sample).dt = s.dt := awaitStep_frame s.sample .delay (by decide)
    exact absurd hrise (by simp [hsame])
  · exact absurd hrise (by simp)
  · obtain hsame | ⟨x, hd⟩ := runWord_dt_cases hrun
    · exact absurd hrise (by simp [hsame])
    · exact ⟨ht, hm, op, x, hf, hd⟩

/-- Settles O8: the entry writes the four fields of the record. -/
theorem faultEntryWritesRecordOnly : Obligations.FaultEntryWritesRecordOnly :=
  fun s k p w => ⟨rfl, rfl, rfl, rfl, raise_frame s k p w, rfl, rfl, rfl, rfl, rfl, rfl⟩

/-- Settles O14: each timer is lowered with floor 0, and a step with a Tick due is that Tick. -/
theorem tickLowersBothTimers : Obligations.TickLowersBothTimers := by
  refine fun s => ⟨tick_of_halt, fun hh => ⟨tick_dt_toNat hh, tick_st_toNat hh, tick_frame hh, fun ht => ?_⟩⟩
  exact ⟨_, step_of_ticksDue hh ht, rfl, rfl, rfl, tickStep_frame s⟩

end Sys2Proof.Proofs.Exceptions
end

section
/-! SUPPORT. What the reset state and the launch state read as, and the settled statements of spec/70_reset_and_hazards.md. -/

namespace Sys2Proof.Machine

/-! ### Reset (spec/70_reset_and_hazards.md R180, spec/10_state.md R36) -/

theorem getV_reset (z : RegIx) : State.reset.getV z = 0 := Vector.getElem_replicate _

theorem pixel_reset (p : Pixel) : State.reset.pixel p = false := by
  have hrow : State.reset.fb[p.2.val]'(p.2.isLt) = 0 := Vector.getElem_replicate _
  rw [State.pixel, fbPixel, hrow]
  exact BitVec.getLsbD_zero

/-- Memory lists nothing after reset. -/
theorem readByte_reset (a : Addr) : State.reset.readByte a = Memory.unlisted a.toNat := rfl

theorem readByte_reset_font {a : Addr} (h : a.toNat < 80) : State.reset.readByte a = Config.fontByte a.toNat := if_pos h

theorem readByte_reset_zero {a : Addr} (h : 80 ≤ a.toNat) : State.reset.readByte a = 0 := if_neg (Nat.not_lt.2 h)

/-! ### Launch (spec/70_reset_and_hazards.md R182 to R184) -/

theorem launch_of_le {rom : List Byte} (h : rom.length ≤ 3584) : launch rom = some (State.reset.loadRom rom) :=
  if_pos (decide_eq_true h)

theorem launch_of_lt {rom : List Byte} (h : 3584 < rom.length) : launch rom = none :=
  if_neg fun hfits => Nat.not_le.2 h (of_decide_eq_true hfits)

theorem readByte_loadRom (s : State) {rom : List Byte} (h : rom.length ≤ 3584) {j : Nat} (hj : j < rom.length) :
    (s.loadRom rom).readByte (BitVec.ofNat 12 (0x200 + j)) = rom[j] :=
  readByte_loadAt s 0x200 rom (by omega) j hj

/-- A ROM that fits is loaded from `0x200` up without wrapping. -/
theorem readByte_loadRom_other (s : State) {rom : List Byte} (h : rom.length ≤ 3584) {a : Addr}
    (ha : a.toNat < 0x200 ∨ 0x200 + rom.length ≤ a.toNat) : (s.loadRom rom).readByte a = s.readByte a := by
  refine readByte_loadAt_other s 0x200 rom a fun j hj he => ?_
  have hnum := congrArg BitVec.toNat he
  rw [BitVec.toNat_ofNat] at hnum
  omega

end Sys2Proof.Machine

/-! ### The obligations -/

namespace Sys2Proof.Proofs.Reset

open Sys2Proof.Machine

/-- Settles O60: the load writes memory only, byte by byte from `0x200`, over the contents after reset. -/
theorem launchLoadsTheRom : Obligations.LaunchLoadsTheRom := by
  refine fun rom => ⟨fun h => ⟨_, launch_of_le h, loadAt_frame _ _ _, fun j => readByte_loadRom _ h, fun a ha => ?_,
    fun a hfont ha => ?_⟩, launch_of_lt⟩
  · exact (readByte_loadRom_other _ h (.inl (by omega))).trans (readByte_reset_font ha)
  · exact (readByte_loadRom_other _ h ha).trans (readByte_reset_zero hfont)

/-- Settles O59, part by part. -/
theorem resetValues : Obligations.ResetValues := fun s =>
  ⟨hostReset_eq s, getV_reset, rfl, rfl, rfl, rfl, stkAt_reset, rfl, fun _ => readByte_reset_font, fun _ => readByte_reset_zero,
    pixel_reset, rfl, rfl, rfl, rfl, rfl, rfl⟩

end Sys2Proof.Proofs.Reset
end
